-- ==== Sys2Proof/Word.lean ====
section
/-! DEFINITION. Word.lean: the widths the spec gives its values, and the eight-word register group. -/

namespace Sys2Proof

/-- A byte of the message or of text, and one cell of the block buffer (R24, R41). -/
abbrev Byte := BitVec 8

/-- A 64-bit word of the datapath (R6, R9); `+` on it is addition modulo 2^64 (R10). -/
abbrev Word := BitVec 64

/-- A command word (R81). -/
abbrev CmdWord := BitVec 16

/-- A response word (R89). -/
abbrev RspWord := BitVec 16

/-- Eight 64-bit words: the shape of `H` (R20), of the working variables `V` (R21), of each `SLOT` (R36) and of each
`COMP` (R38). Word `i` of the spec is the field `w<i>`; of `V`, `a` is `w0` and `h` is `w7`. -/
structure Words8 where
  w0 : Word
  w1 : Word
  w2 : Word
  w3 : Word
  w4 : Word
  w5 : Word
  w6 : Word
  w7 : Word
deriving DecidableEq, Repr, Inhabited

end Sys2Proof
end

