-- ==== Sys2Proof/Syntax.lean ====
section
/-! DEFINITION. Syntax.lean: the twelve commands of the opcode map (R85), one constructor per row of
spec/opcode_table.json, in the table's order. -/

namespace Sys2Proof

/-- A command with its operands, each as wide as its field in the command word (R82, R85). -/
inductive Instr where
  /-- NOP (R230). -/
  | nop
  /-- HINIT: open a message (R111). -/
  | hinit
  /-- HPUSH b: push the message byte `b` (R113). -/
  | hpush (b : Byte)
  /-- HFIN: pad and close the message (R116). -/
  | hfin
  /-- RDX s, j: read character `j` of digest source `s`: 0 to 3 `SLOT[s]`, 4 and 5 `COMP[s-4]`, 6 `H`; 7 is reserved
  (R85, R185). -/
  | rdx (s : BitVec 3) (j : BitVec 7)
  /-- FSTART: begin a fingerprint (R196). -/
  | fstart
  /-- FLATCH c: keep the finished digest in slot `c` (R197). -/
  | flatch (c : BitVec 2)
  /-- FCOMP s: make the composite digest in `COMP[s]` (R200). -/
  | fcomp (s : BitVec 1)
  /-- CMP: the verdict bit (R216). -/
  | cmp
  /-- VRDS j: character `j` of the verdict string (R219). -/
  | vrds (j : BitVec 5)
  /-- STAT r: status byte `r` (R232). -/
  | stat (r : BitVec 2)
  /-- RST: back to the control state of reset (R234). -/
  | rst
deriving DecidableEq, Repr

end Sys2Proof
end

