-- ==== Sys2Proof/WellFormed.lean ====
section
/-! DEFINITION. WellFormed.lean: which terms of `Instr` are commands. The field widths bound every operand but one: RDX's
source 7 fits its field and is reserved (R85, R86). -/

namespace Sys2Proof

/-- The operands are legal values of rule R85. -/
def Instr.wellFormed : Instr → Bool
  | .rdx s _ => s != 7
  | .nop | .hinit | .hpush _ | .hfin | .fstart | .flatch _ | .fcomp _ | .cmp | .vrds _ | .stat _ | .rst => true

/-- `wellFormed` as a proposition. -/
abbrev Instr.WellFormed (i : Instr) : Prop := i.wellFormed = true

end Sys2Proof
end

