-- ==== Sys2Proof/Decode.lean ====
section
/-! DEFINITION. Decode.lean: the opcode map (R85), decoding of every 16-bit word (R86, R87), and the encoder. -/

namespace Sys2Proof

/-- Field `op` of a command word, bits 15 to 12 (R81). -/
def opField (w : CmdWord) : BitVec 4 := w.extractLsb' 12 4

/-- Field `sel`, bits 11 to 8 (R81). -/
def selField (w : CmdWord) : BitVec 4 := w.extractLsb' 8 4

/-- Field `imm`, bits 7 to 0 (R81). -/
def immField (w : CmdWord) : BitVec 8 := w.extractLsb' 0 8

/-- One row of the opcode map: the word `w` selects it when `w and mask = pattern`, and `build` reads the operands from the
fields (R83, R85). -/
structure OpcodeRow where
  mnemonic : String
  pattern : CmdWord
  mask : CmdWord
  build : CmdWord → Instr

/-- The opcode map, in the order of rule R85. -/
def opcodeRows : List OpcodeRow :=
  [ { mnemonic := "NOP", pattern := 0x0000, mask := 0xffff, build := fun _ => .nop },
    { mnemonic := "HINIT", pattern := 0x1000, mask := 0xffff, build := fun _ => .hinit },
    { mnemonic := "HPUSH", pattern := 0x2000, mask := 0xff00, build := fun w => .hpush (immField w) },
    { mnemonic := "HFIN", pattern := 0x3000, mask := 0xffff, build := fun _ => .hfin },
    { mnemonic := "RDX", pattern := 0x4000, mask := 0xf880,
      build := fun w => .rdx ((selField w).extractLsb' 0 3) ((immField w).extractLsb' 0 7) },
    { mnemonic := "FSTART", pattern := 0x5000, mask := 0xffff, build := fun _ => .fstart } ] ++
  [ { mnemonic := "FLATCH", pattern := 0x6000, mask := 0xfcff,
      build := fun w => .flatch ((selField w).extractLsb' 0 2) },
    { mnemonic := "FCOMP", pattern := 0x7000, mask := 0xfeff,
      build := fun w => .fcomp ((selField w).extractLsb' 0 1) },
    { mnemonic := "CMP", pattern := 0x8000, mask := 0xffff, build := fun _ => .cmp },
    { mnemonic := "VRDS", pattern := 0x9000, mask := 0xffe0,
      build := fun w => .vrds ((immField w).extractLsb' 0 5) },
    { mnemonic := "STAT", pattern := 0xa000, mask := 0xfcff,
      build := fun w => .stat ((selField w).extractLsb' 0 2) },
    { mnemonic := "RST", pattern := 0xf000, mask := 0xffff, build := fun _ => .rst } ]

/-- The word satisfies the row's match and mask (R85). -/
def OpcodeRow.selects (r : OpcodeRow) (w : CmdWord) : Bool := w &&& r.mask == r.pattern

/-- Why a word is reserved (R87). -/
inductive Reserved where
  /-- `op` is 0xb to 0xe. -/
  | unassignedOpcode
  /-- An assigned opcode with a nonzero bit where its pattern shows `0` (for `op = 0`, any word but `0x0000`). -/
  | mustBeZeroField
  /-- RDX with source 7. -/
  | rdxSource7
deriving DecidableEq, Repr

/-- Decode in the order of rule R86: find the row; refuse RDX source 7; otherwise read the operands. Total, and blind to
the state. -/
def decode (w : CmdWord) : Except Reserved Instr :=
  match opcodeRows.find? (fun r => r.selects w) with
  | none => .error (if 0xb ≤ opField w ∧ opField w ≤ 0xe then .unassignedOpcode else .mustBeZeroField)
  | some r => if (r.build w).wellFormed then .ok (r.build w) else .error .rdxSource7

/-- The three fields put together (R81). -/
def cmdWord (op sel : BitVec 4) (imm : BitVec 8) : CmdWord := (op ++ sel) ++ imm

/-- The word of a command, from the patterns of rule R85. -/
def encode : Instr → CmdWord
  | .nop => cmdWord 0x0 0 0
  | .hinit => cmdWord 0x1 0 0
  | .hpush b => cmdWord 0x2 0 b
  | .hfin => cmdWord 0x3 0 0
  | .rdx s j => cmdWord 0x4 (s.setWidth 4) (j.setWidth 8)
  | .fstart => cmdWord 0x5 0 0
  | .flatch c => cmdWord 0x6 (c.setWidth 4) 0
  | .fcomp s => cmdWord 0x7 (s.setWidth 4) 0
  | .cmp => cmdWord 0x8 0 0
  | .vrds j => cmdWord 0x9 0 (j.setWidth 8)
  | .stat r => cmdWord 0xa (r.setWidth 4) 0
  | .rst => cmdWord 0xf 0 0

/-- The number, in `opcodeRows`, of the row a command belongs to. -/
def rowIndex : Instr → Nat
  | .nop => 0
  | .hinit => 1
  | .hpush _ => 2
  | .hfin => 3
  | .rdx _ _ => 4
  | .fstart => 5
  | .flatch _ => 6
  | .fcomp _ => 7
  | .cmp => 8
  | .vrds _ => 9
  | .stat _ => 10
  | .rst => 11

/-- What the decoder reads from a table word of `nbits` bits: every command is one 16-bit word moved whole (R64, R81,
R88), so a value that does not fit 16 bits is no command (log 16). -/
def decodeTableWord (nbits w : Nat) : Option Instr :=
  if nbits ≤ 16 ∧ w < 2 ^ 16 then
    match decode (BitVec.ofNat 16 w) with
    | .ok i => some i
    | .error _ => none
  else none

end Sys2Proof
end

