-- ==== Sys2Proof/Config.lean ====
section
/-! DEFINITION. Config.lean: what an implementation fixes, and the free values. -/

namespace Sys2Proof

/-- The parameters of the hardware. The value this hardware takes is `Sys2Proof.Machine.config`. -/
structure Config where
  /-- `P_IV`, the eight initial hash words (R7). -/
  pIV : Words8
deriving DecidableEq, Repr

/-- FREE VALUE: word `i` of draw `k`, for the 64-bit registers the spec leaves unspecified (R21, R22, R45; U10, U11).
No body: nothing can be proved of a value of it. Logs 5 and 6. -/
opaque Config.freeWord (k i : Nat) : Word

/-- FREE VALUE: byte `a` of draw `k`, for `BUF` after a reset event (R24, R45). Log 6. -/
opaque Config.freeByte (k a : Nat) : Byte

/-- FREE VALUE: `LEN` of draw `k`, after a reset event (R26, R45). Log 6. -/
opaque Config.freeLen (k : Nat) : BitVec 128

/-- FREE VALUE: `t` of draw `k` (R23, R45). Logs 5 and 6. -/
opaque Config.freeIndex (k : Nat) : BitVec 7

end Sys2Proof
end

