-- ==== Sys2Proof/Machine/State.lean ====
section
/-! DEFINITION. Machine/State.lean: the architectural state of 10_state.md, the host's side of the ports, the reasons a
step can stop, and the state after reset. -/

namespace Sys2Proof.Machine

/-- `PH`, the engine phase (R30). Code 3 never occurs and has no constructor (U17, log 8). -/
inductive Phase where
  /-- 0: no message open, no digest available. -/
  | idle
  /-- 1: a message is open. -/
  | absorb
  /-- 2: the message is closed and `H` is final. -/
  | done
deriving DecidableEq, Repr

/-- An action of the host (R14, R80, R280, R283). -/
inductive HostEvent where
  /-- A command word is offered and accepted. -/
  | cmd (w : CmdWord)
  /-- A reset event with no command executing. -/
  | reset
  /-- The command word is accepted and a reset event falls while it executes: the command is abandoned (R283). -/
  | cmdAbandoned (w : CmdWord)
deriving DecidableEq, Repr

/-- The block buffer as (index, byte) pairs in one canonical form: indexes strictly rising and below 128, and no pair whose
byte is what an unlisted index reads as (R24, R60, log 9). -/
abbrev Memory := List Host.Cell

/-- The state. Each field's rule gives its width and meaning; the last three are the ports' and the model's own. -/
structure State where
  /-- `H[0..7]`, the hash state (R20). -/
  h : Words8
  /-- `V[0..7]`, the working variables `a..h`, transient (R21). -/
  v : Words8
  /-- `W[0..79]`, the message schedule, transient (R22). -/
  w : Vector Word 80
  /-- `t`, the position inside a block compression, transient (R23). -/
  t : BitVec 7
  /-- `BUF[0..127]`, the block buffer (R24). -/
  buf : Memory
  /-- `N`, the fill count (R25). -/
  n : BitVec 7
  /-- `LEN`, the message length in bits (R26). -/
  len : BitVec 128
  /-- `PH`, the phase (R30). -/
  ph : Phase
  /-- `ERR`, sticky (R31). -/
  err : Bool
  /-- `OVF`, sticky within one message (R32). -/
  ovf : Bool
  /-- `ERRCODE`, the code of the first refused command (R35). -/
  errcode : BitVec 8
  /-- `SLOT[0..3][0..7]` (R36). -/
  slot : Vector Words8 4
  /-- `SV[3:0]`, slot valid bits (R37). -/
  sv : BitVec 4
  /-- `COMP[0..1][0..7]` (R38). -/
  comp : Vector Words8 2
  /-- `CV[1:0]`, composite valid bits (R39). -/
  cv : BitVec 2
  /-- The host's actions still to come, oldest first (R80, R297; the model's stand-in for the command channel and the
  reset line, log 1). -/
  host : List HostEvent
  /-- The response words produced so far, oldest first (R80, log 2). -/
  responses : List RspWord
  /-- The model's own counter of free-value draws (logs 5 and 6). -/
  draws : Nat
deriving DecidableEq, Repr

/-- Reasons the machine stops with a fault: none. The datapath cannot fail, a senseless command is refused with a response
and the engine goes on (R245, R247, R254), and every command terminates (R296). Having no constructor is safe: the type
says that no step faults. -/
inductive Fault where
deriving DecidableEq, Repr

/-- Reasons the model gives an instruction no meaning. -/
inductive Refusal where
  /-- Raised only by an arm of `exec` whose instruction has no meaning yet. Safe: the run stops there. -/
  | notModelled (mnemonic : String)
deriving DecidableEq, Repr

/-- The machine after reset (R45, R281): control registers as the spec gives them; `H`, `V`, `W`, `t`, `BUF`, `LEN`, `SLOT`,
`COMP`, for which the spec gives none, at zero (DESIGN CHOICE, log 4); no action of the host and no response yet. -/
def State.reset : State where
  h := ⟨0, 0, 0, 0, 0, 0, 0, 0⟩
  v := ⟨0, 0, 0, 0, 0, 0, 0, 0⟩
  w := Vector.replicate 80 0
  t := 0
  buf := []
  n := 0
  len := 0
  ph := .idle
  err := false
  ovf := false
  errcode := 0x00
  slot := Vector.replicate 4 ⟨0, 0, 0, 0, 0, 0, 0, 0⟩
  sv := 0b0000
  comp := Vector.replicate 2 ⟨0, 0, 0, 0, 0, 0, 0, 0⟩
  cv := 0b00
  host := []
  responses := []
  draws := 0

end Sys2Proof.Machine
end

