-- ==== Sys2Proof/Machine/Ops.lean ====
section
/-! DEFINITION. Machine/Ops.lean: the named operations over the block buffer and the registers, the refusal of a command
(the one exception of this hardware), the reset event, and taking the host's next action. -/

namespace Sys2Proof.Machine

/-! ## The block buffer (R24, R60) -/

/-- What a byte of the buffer that is not listed reads as (DESIGN CHOICE, log 9; no command can observe it, R120). -/
def unlistedByte : Byte := 0

/-- `BUF[a]`. -/
def Memory.read : Memory → Nat → Byte
  | [], _ => unlistedByte
  | (a', b') :: m, a => if a = a' then b' else Memory.read m a

/-- Put a byte in front of a memory, unless it is what an unlisted index reads as. -/
def Memory.listByte (a : Nat) (b : Byte) (m : Memory) : Memory :=
  if b = unlistedByte then m else (a, b) :: m

/-- `BUF[a] <- b`, in the canonical form. -/
def Memory.write : Memory → Nat → Byte → Memory
  | [], a, b => Memory.listByte a b []
  | (a', b') :: m, a, b =>
    if a < a' then Memory.listByte a b ((a', b') :: m)
    else if a = a' then Memory.listByte a b m
    else (a', b') :: Memory.write m a b

/-- The canonical form from index `lo` on: indexes strictly rising from at least `lo`, below 128, no byte equal to
`unlistedByte`. -/
def Memory.wfFrom : Nat → Memory → Bool
  | _, [] => true
  | lo, (a, b) :: m => decide (lo ≤ a) && decide (a < 128) && b != unlistedByte && Memory.wfFrom (a + 1) m

/-- The canonical form of the block buffer. -/
def Memory.wf (m : Memory) : Bool := Memory.wfFrom 0 m

/-- The buffer whose byte `a` is `f a` for `a` from `lo` to `lo + k - 1`, in canonical form. -/
def Memory.ofBytes (f : Nat → Byte) : Nat → Nat → Memory
  | _, 0 => []
  | lo, k + 1 => Memory.listByte lo (f lo) (Memory.ofBytes f (lo + 1) k)

/-- `n` bytes put together into one value, the first the most significant (R11, R61). -/
def beValue (width : Nat) (bytes : List Byte) : BitVec width :=
  bytes.foldl (fun acc b => (acc <<< 8) ||| b.setWidth width) 0

/-- The `n` bytes of a value, the most significant first: byte `k` is bits `8(n-1-k)+7` down to `8(n-1-k)` (R62). -/
def beBytes {width : Nat} (n : Nat) (v : BitVec width) : List Byte :=
  (List.range n).map (fun k => v.extractLsb' (8 * (n - 1 - k)) 8)

/-- `MemRead(addr, n)`: `n` consecutive bytes as one big-endian value (R11). -/
def Memory.memRead (m : Memory) (addr n : Nat) : BitVec (8 * n) :=
  beValue (8 * n) ((List.range n).map (fun k => m.read (addr + k)))

/-- `MemWrite(addr, n, v)`: the value's bytes to the same places, big-endian (R11). No command rule uses it. -/
def Memory.memWrite (m : Memory) (addr n : Nat) (v : BitVec (8 * n)) : Memory :=
  (List.range n).foldl (fun m k => m.write (addr + k) (v.extractLsb' (8 * (n - 1 - k)) 8)) m

/-- The block in the buffer: `BUF[0]` to `BUF[127]` (R24, R66). -/
def State.block (s : State) : List Byte := (List.range 128).map s.buf.read

/-- `BUF[N] <- x` (step 1 of R112). -/
def State.putByte (s : State) (x : Byte) : State :=
  { s with buf := s.buf.write s.n.toNat x }

/-- `N <- k`. -/
def State.setFill (s : State) (k : BitVec 7) : State :=
  { s with n := k }

/-- `H <- x`. -/
def State.setHash (s : State) (x : Words8) : State :=
  { s with h := x }

/-- `PH <- p`. -/
def State.setPhase (s : State) (p : Phase) : State :=
  { s with ph := p }

/-! ## The response (R80, R89) -/

/-- `rsp <- v`: the command's one response word joins those already produced. -/
def State.respond (s : State) (v : RspWord) : State :=
  { s with responses := s.responses ++ [v] }

/-! ## Protocol errors (R245 to R247): the one exception -/

/-- IllegalCommand (R246). -/
def illegalCommand : BitVec 8 := 0x01

/-- PhaseError (R246). -/
def phaseError : BitVec 8 := 0x02

/-- NotValid (R246). -/
def notValid : BitVec 8 := 0x03

/-- `ERRCODE` and `ERR` of a refusal: the first code is kept, the flag is sticky (R31, R35, R247). -/
def State.noteError (s : State) (code : BitVec 8) : State :=
  { s with errcode := if s.err then s.errcode else code, err := true }

/-- `raise ProtocolError(code)`: the whole effect of a refused command (R247). It saves nothing and jumps nowhere (R254),
so there is no return from it (R255): the engine takes the next command. -/
def State.refuse (s : State) (code : BitVec 8) : State :=
  (s.noteError code).respond (0x8000#16 + code.setWidth 16)

/-! ## Reset (R45, R281) and the RST command's share of it (R234) -/

/-- Every register that has a reset value goes back to it (R45, R234). -/
def State.resetControl (s : State) : State :=
  { s with ph := .idle, n := 0, err := false, errcode := 0x00, ovf := false, sv := 0b0000, cv := 0b00 }

/-- Eight unspecified words of draw `k`, numbered from `i` (R45). -/
def freeWords8 (k i : Nat) : Words8 :=
  ⟨Config.freeWord k i, Config.freeWord k (i + 1), Config.freeWord k (i + 2), Config.freeWord k (i + 3),
   Config.freeWord k (i + 4), Config.freeWord k (i + 5), Config.freeWord k (i + 6), Config.freeWord k (i + 7)⟩

/-- The transient registers after a block compression: unspecified between commands (R21, R22, R23; U11, log 5). -/
def State.dropTransients (s : State) : State :=
  { s with
    v := freeWords8 s.draws 0
    w := Vector.ofFn (fun i => Config.freeWord s.draws (8 + i.val))
    t := Config.freeIndex s.draws
    draws := s.draws + 1 }

/-- A reset event: control registers at their reset values, every other register unspecified (R281, log 6). What the host
still has to do and the responses already produced stay (R283). -/
def State.resetEvent (s : State) : State :=
  { s.resetControl.dropTransients with
    h := freeWords8 s.draws 88
    buf := Memory.ofBytes (Config.freeByte s.draws) 0 128
    len := Config.freeLen s.draws
    slot := Vector.ofFn (fun i => freeWords8 s.draws (96 + 8 * i.val))
    comp := Vector.ofFn (fun i => freeWords8 s.draws (128 + 8 * i.val)) }

/-! ## The ports (R80) -/

/-- The state once the host's oldest action is taken. -/
def State.takeEvent (s : State) : State :=
  { s with host := s.host.tail }

/-- A reserved word is refused by decoding alone (R87, R248). -/
def State.refuseReserved (s : State) : State :=
  s.refuse illegalCommand

/-- A word placed as the host's next action. -/
def State.offer (s : State) (w : CmdWord) : State :=
  { s with host := .cmd w :: s.host }

end Sys2Proof.Machine
end

