-- ==== Sys2Proof/Machine/Compression.lean ====
section
/-! DEFINITION. Machine/Compression.lean: the message schedule and the 80-round compression (41_compression.md), the
parameters it takes, and the micro-operations that refine it (R165, R166). The transform is not SHA-384 (R2, R161). -/

namespace Sys2Proof.Machine

/-- The parameters this hardware takes: `P_IV` of rule R7 (D6, log 7). -/
def config : Config where
  pIV := ⟨0xcbbb9d5dc1059ed8, 0x629a292a367cd507, 0x9159015a3070dd17, 0x152fecd8f70e5939,
          0x67332667ffc00b31, 0x8eb44a8768581511, 0xdb0c2e0d64f98fa7, 0x47b5481dbefa4fa4⟩

/-- `K`, the one round constant of all 80 rounds (R6, R143). -/
def roundConstant : Word := 0x428a2f98d728ae22

/-! ## Word functions (R10, R140 to R142) -/

/-- Right rotation by `n`, `1 <= n <= 63` (R10). -/
def rotr (x : Word) (n : Nat) : Word := (x >>> n) ||| (x <<< (64 - n))

/-- `σ0` (R140). -/
def ssig0 (x : Word) : Word := rotr x 1 ^^^ rotr x 8 ^^^ (x >>> 7)

/-- `σ1` (R140). -/
def ssig1 (x : Word) : Word := rotr x 19 ^^^ rotr x 61 ^^^ (x >>> 6)

/-- `Σ0` (R141). -/
def bsig0 (x : Word) : Word := rotr x 28 ^^^ rotr x 34 ^^^ rotr x 39

/-- `Σ1` (R141). -/
def bsig1 (x : Word) : Word := rotr x 14 ^^^ rotr x 18 ^^^ rotr x 41

/-- `Ch` (R142). -/
def ch (e f g : Word) : Word := (e &&& f) ^^^ (~~~e &&& g)

/-- `Maj` (R142). -/
def maj (a b c : Word) : Word := (a &&& b) ^^^ (a &&& c) ^^^ (b &&& c)

/-! ## The schedule (R145) -/

/-- Words 0 to 15 of the schedule: the block's sixteen big-endian words (R61, R145). -/
def blockWords (block : List Byte) : List Word :=
  (List.range 16).map (fun i => beValue 64 ((block.drop (8 * i)).take 8))

/-- The word that follows `W[0..i-1]` (R145). -/
def nextScheduleWord (w : List Word) : Word :=
  ssig1 (w.getD (w.length - 2) 0) + w.getD (w.length - 7) 0 + ssig0 (w.getD (w.length - 15) 0)
    + w.getD (w.length - 16) 0

/-- `k` more words, in increasing order (R145). -/
def expandSchedule : Nat → List Word → List Word
  | 0, w => w
  | k + 1, w => expandSchedule k (w ++ [nextScheduleWord w])

/-- `schedule(B)`, the 80 words (R145). -/
def schedule (block : List Byte) : List Word := expandSchedule 64 (blockWords block)

/-! ## The round and the compression (R150 to R158) -/

/-- `T1` of a round (R150). -/
def temp1 (v : Words8) (w : Word) : Word := v.w7 + bsig1 v.w4 + ch v.w4 v.w5 v.w6 + roundConstant + w

/-- `T2` of a round (R150). -/
def temp2 (v : Words8) : Word := bsig0 v.w0 + maj v.w0 v.w1 v.w2

/-- `round(V, w)`: the new `a` is the old `a` plus `T1` plus `T2` (R152, C1); every right-hand side is a value from before
the round (R154). -/
def round (v : Words8) (w : Word) : Words8 where
  w0 := v.w0 + temp1 v w + temp2 v
  w1 := v.w0
  w2 := v.w1
  w3 := v.w2
  w4 := v.w3 + temp1 v w
  w5 := v.w4
  w6 := v.w5
  w7 := v.w6

/-- Word by word addition modulo 2^64, the add-back (R156). -/
def addWords (x y : Words8) : Words8 :=
  ⟨x.w0 + y.w0, x.w1 + y.w1, x.w2 + y.w2, x.w3 + y.w3, x.w4 + y.w4, x.w5 + y.w5, x.w6 + y.w6, x.w7 + y.w7⟩

/-- `compress(Hin, B)`: 80 rounds over the schedule from `Hin`, then the add-back (R156). -/
@[irreducible] def compress (hin : Words8) (block : List Byte) : Words8 :=
  addWords hin ((schedule block).foldl round hin)

/-- A block compression of the machine: `H <- compress(H, BUF)`; the transient registers are unspecified afterwards
(R112, R156; R21 to R23, log 5). -/
def State.compressBlock (s : State) : State :=
  s.dropTransients.setHash (compress s.h s.block)

/-! ## Micro-operations (R165, R166): a refinement that no command observes -/

/-- `u.LOAD` (R165). -/
def State.uLoad (s : State) : State :=
  { s with
    w := Vector.ofFn (fun i => if i.val < 16 then s.buf.memRead (8 * i.val) 8 else s.w[i])
    v := s.h
    t := 16 }

/-- `W[k]` of the transient schedule register, for `k` up to 79. -/
def State.wAt (s : State) (k : Nat) : Word := s.w[k]?.getD 0

/-- `u.EXPAND`: needs `16 <= t <= 79` (R165). -/
def State.uExpand (s : State) : Option State :=
  if 16 ≤ s.t ∧ s.t ≤ 79 then
    some { s with
      w := s.w.setIfInBounds s.t.toNat
        (ssig1 (s.wAt (s.t.toNat - 2)) + s.wAt (s.t.toNat - 7) + ssig0 (s.wAt (s.t.toNat - 15))
          + s.wAt (s.t.toNat - 16))
      t := if s.t = 79 then 0 else s.t + 1 }
  else none

/-- `u.ROUND`: needs `0 <= t <= 79` (R165; log 12 on the stage and on `t` after the last round). -/
def State.uRound (s : State) : Option State :=
  if s.t ≤ 79 then some { s with v := round s.v (s.wAt s.t.toNat), t := s.t + 1 } else none

/-- `u.ADD` (R165). -/
def State.uAdd (s : State) : State :=
  s.setHash (addWords s.h s.v)

/-- The same micro-operation `k` times. -/
def repeatMicro (op : State → Option State) : Nat → State → Option State
  | 0, s => some s
  | k + 1, s => (op s).bind (repeatMicro op k)

/-- The 146 micro-operations of one block compression (R166). -/
def State.microCompress (s : State) : Option State :=
  ((repeatMicro State.uExpand 64 s.uLoad).bind (repeatMicro State.uRound 80)).map State.uAdd

end Sys2Proof.Machine
end

