-- ==== Sys2Proof/Machine/Flags.lean ====
section
/-! DEFINITION. Machine/Flags.lean: the length counter with its overflow flag (R26, R32), and the four status bytes (R34). -/

namespace Sys2Proof.Machine

/-- `LEN + 8` carries out of bit 127 (R32, R113). -/
def lenCarries (len : BitVec 128) : Bool := decide (2 ^ 128 ≤ len.toNat + 8)

/-- `LEN <- (LEN + 8) mod 2^128` (R113, step 3 of R200). -/
def State.addByteToLen (s : State) : State :=
  { s with len := s.len + 8 }

/-- `if LEN + 8 >= 2^128: OVF <- 1` (R113, R125). -/
def State.noteLenOverflow (s : State) : State :=
  { s with ovf := s.ovf || lenCarries s.len }

/-- The code of a phase (R30). -/
def Phase.code : Phase → BitVec 2
  | .idle => 0
  | .absorb => 1
  | .done => 2

/-- STATUS: bits 1:0 `PH`, bit 2 `ERR`, bit 3 `OVF`, bits 7:4 zero (R34). -/
def State.statusByte (s : State) : BitVec 8 :=
  0#4 ++ BitVec.ofBool s.ovf ++ BitVec.ofBool s.err ++ s.ph.code

/-- VALID: bits 3:0 `SV`, bits 5:4 `CV`, bits 7:6 zero (R34). -/
def State.validByte (s : State) : BitVec 8 :=
  0#2 ++ s.cv ++ s.sv

/-- FILL: bits 6:0 `N`, bit 7 zero (R34). -/
def State.fillByte (s : State) : BitVec 8 :=
  0#1 ++ s.n

/-- The status byte that selector `r` of STAT names (R34, R232). -/
def State.statByte (s : State) (r : BitVec 2) : BitVec 8 :=
  if r = 0 then s.statusByte
  else if r = 1 then s.errcode
  else if r = 2 then s.validByte
  else s.fillByte

end Sys2Proof.Machine
end

