-- ==== Sys2Proof/Machine/Message.lean ====
section
/-! DEFINITION. Machine/Message.lean: padding as a function (R110, R114), `hash_state` (R158), the absorb step (R112), and
the message commands HINIT, HPUSH, HFIN (R111, R113, R116). -/

namespace Sys2Proof.Machine

/-! ## Pure functions -/

/-- The number of zero bytes of the padding, `(111 - Lbytes) mod 128` in 0 to 127 (R110). -/
def padZeros (lbytes : Nat) : Nat := ((111 - (lbytes : Int)) % 128).toNat

/-- `be128(v)` (R110, R62). -/
def be128 (v : BitVec 128) : List Byte := beBytes 16 v

/-- `pad(M)` for `8 * |M| < 2^128` (R110); for longer messages the spec gives no padding and this one has the length
modulo 2^128 (R125, log 10). -/
def pad (m : List Byte) : List Byte :=
  m ++ [0x80] ++ List.replicate (padZeros m.length) 0x00 ++ be128 (BitVec.ofNat 128 (8 * m.length))

/-- `blocks(P)`: the consecutive 128-byte blocks of `P` (R114). -/
def blocks (p : List Byte) : List (List Byte) :=
  (List.range (p.length / 128)).map (fun q => (p.drop (128 * q)).take 128)

/-- `hash_state(M)` from the initial words `iv` (R158). -/
def hashState (iv : Words8) (m : List Byte) : Words8 := (blocks (pad m)).foldl compress iv

/-! ## The absorb step -/

/-- `absorb(x)`: the byte goes to `BUF[N]`; the 128th byte of a block compresses it (R112). -/
def State.absorb (s : State) (x : Byte) : State :=
  if s.n = 127 then (s.putByte x).compressBlock.setFill 0 else (s.putByte x).setFill (s.n + 1)

/-- The bytes absorbed one after another. -/
def State.absorbAll (s : State) (bytes : List Byte) : State := bytes.foldl State.absorb s

/-- `while N != 112: absorb(0x00)`, at most `fuel` passes; 127 are enough (R116, R296). -/
def State.absorbZeros : Nat → State → State
  | 0, s => s
  | fuel + 1, s => if s.n = 112 then s else State.absorbZeros fuel (s.absorb 0x00)

/-! ## Opening, pushing and closing a message, shared by the commands and by FCOMP -/

/-- The writes of HINIT (R111, step 2 of R200). -/
def State.openMessage (s : State) : State :=
  { s with h := config.pIV, len := 0, n := 0, ovf := false, ph := .absorb }

/-- The writes of HPUSH: absorb, then the length counter and its overflow flag (R113). -/
def State.pushByte (s : State) (b : Byte) : State :=
  (s.absorb b).noteLenOverflow.addByteToLen

/-- The writes of HFIN: `0x80`, zeros until sixteen bytes of the block remain, the length, the phase (R116, step 4 of
R200). -/
def State.closeMessage (s : State) : State :=
  ((State.absorbZeros 127 (s.absorb 0x80)).absorbAll (be128 s.len)).setPhase .done

/-! ## The commands -/

/-- HINIT (R111): accepted in every phase. -/
def execHinit (s : State) : Host.Outcome State Fault Refusal :=
  .next (s.openMessage.respond 0x0000)

/-- HPUSH b (R113). -/
def execHpush (b : Byte) (s : State) : Host.Outcome State Fault Refusal :=
  if s.ph = .absorb then .next ((s.pushByte b).respond 0x0000) else .next (s.refuse phaseError)

/-- HFIN (R116). -/
def execHfin (s : State) : Host.Outcome State Fault Refusal :=
  if s.ph = .absorb then .next (s.closeMessage.respond 0x0000) else .next (s.refuse phaseError)

end Sys2Proof.Machine
end

