-- ==== Sys2Proof/Machine/Operands.lean ====
section
/-! DEFINITION. Machine/Operands.lean: what the selectors of the commands name (R41, R85): slots, composites, their valid
bits, and the digest sources of RDX. -/

namespace Sys2Proof.Machine

/-- `SLOT[c]` (R36). -/
def State.slotAt (s : State) (c : BitVec 2) : Words8 := s.slot[c.toNat]'(c.isLt)

/-- `COMP[k]` (R38). -/
def State.compAt (s : State) (k : BitVec 1) : Words8 := s.comp[k.toNat]'(k.isLt)

/-- `SV[c] = 1` (R37). -/
def State.slotValid (s : State) (c : BitVec 2) : Bool := s.sv.getLsbD c.toNat

/-- `CV[k] = 1` (R39). -/
def State.compValid (s : State) (k : BitVec 1) : Bool := s.cv.getLsbD k.toNat

/-- `SV = 1111`, which FCOMP needs (R200). -/
def State.allSlotsValid (s : State) : Bool := s.sv == 0b1111

/-- `CV = 11`, which CMP and VRDS need (R216, R219). -/
def State.bothCompsValid (s : State) : Bool := s.cv == 0b11

/-- `SLOT[c] <- H; SV[c] <- 1` (R197). -/
def State.latch (s : State) (c : BitVec 2) : State :=
  { s with slot := s.slot.set c.toNat s.h c.isLt, sv := s.sv ||| (1 <<< c.toNat) }

/-- `COMP[k] <- H; CV[k] <- 1` (steps 5 and 6 of R200). -/
def State.storeComp (s : State) (k : BitVec 1) : State :=
  { s with comp := s.comp.set k.toNat s.h k.isLt, cv := s.cv ||| (1 <<< k.toNat) }

/-- `SV <- 0000` (R196, step 7 of R200). -/
def State.clearSlots (s : State) : State :=
  { s with sv := 0b0000 }

/-- The register group that digest source `src` of RDX names, or the code of the refusal (R185, R249, R250). Source 7 is no
source: a word that names it is reserved (R87, log 11). -/
def State.digestSource (s : State) (src : BitVec 3) : Except (BitVec 8) Words8 :=
  if src < 4 then
    if s.slotValid (src.extractLsb' 0 2) then .ok (s.slotAt (src.extractLsb' 0 2)) else .error notValid
  else if src < 6 then
    if s.compValid (src.extractLsb' 0 1) then .ok (s.compAt (src.extractLsb' 0 1)) else .error notValid
  else if src = 6 then
    if s.ph = .done then .ok s.h else .error phaseError
  else .error illegalCommand

end Sys2Proof.Machine
end

