-- ==== Sys2Proof/Machine/Digest.lean ====
section
/-! DEFINITION. Machine/Digest.lean: the digest formatter (R180 to R183) and the command RDX (R185). -/

namespace Sys2Proof.Machine

/-- `hexdigit(n)` as an 8-bit code (R180). -/
def hexdigit (n : BitVec 4) : Byte :=
  if n ≤ 9 then 0x30 + n.setWidth 8 else 0x61 + (n.setWidth 8 - 10)

/-- `hex16(w)`: sixteen characters, most significant nibble first (R181). -/
def hex16 (w : Word) : List Byte :=
  (List.range 16).map (fun p => hexdigit (w.extractLsb' (60 - 4 * p) 4))

/-- `hex512(S)`: 128 characters, word 0 first (R182). -/
def hex512 (x : Words8) : List Byte :=
  hex16 x.w0 ++ hex16 x.w1 ++ hex16 x.w2 ++ hex16 x.w3 ++ hex16 x.w4 ++ hex16 x.w5 ++ hex16 x.w6 ++ hex16 x.w7

/-- `hash(M)`, the digest text, from the initial words `iv` (R183). -/
def hash (iv : Words8) (m : List Byte) : List Byte := hex512 (hashState iv m)

/-- RDX s, j (R185). -/
def execRdx (src : BitVec 3) (j : BitVec 7) (s : State) : Host.Outcome State Fault Refusal :=
  match s.digestSource src with
  | .ok x => .next (s.respond (((hex512 x).getD j.toNat 0).setWidth 16))
  | .error code => .next (s.refuse code)

end Sys2Proof.Machine
end

