-- ==== Sys2Proof/Machine/Fingerprint.lean ====
section
/-! DEFINITION. Machine/Fingerprint.lean: the fingerprint as a function (R195) and the commands FSTART, FLATCH, FCOMP
(R196, R197, R200). -/

namespace Sys2Proof.Machine

/-- What `fingerprint` returns: four digests and the composite digest (R195). -/
structure ImageFingerprint where
  full : List Byte
  red : List Byte
  green : List Byte
  blue : List Byte
  composite : List Byte
deriving DecidableEq, Repr

/-- `fingerprint(full, r, g, b)` from the initial words `iv` (R195). Nothing is assumed of the four sequences (R198). -/
def fingerprint (iv : Words8) (full r g b : List Byte) : ImageFingerprint where
  full := hash iv full
  red := hash iv r
  green := hash iv g
  blue := hash iv b
  composite := hash iv (hash iv full ++ hash iv r ++ hash iv g ++ hash iv b)

/-- The 512 bytes of the composite message: the texts of the four slots in order (step 1 of R200, R201). -/
def State.slotText (s : State) : List Byte :=
  hex512 (s.slotAt 0) ++ hex512 (s.slotAt 1) ++ hex512 (s.slotAt 2) ++ hex512 (s.slotAt 3)

/-- Step 3 of FCOMP for one byte (R200). -/
def State.feedByte (s : State) (x : Byte) : State :=
  (s.absorb x).addByteToLen

/-- Step 3 of FCOMP: the text, byte by byte (R200). -/
def State.feedText (s : State) (text : List Byte) : State := text.foldl State.feedByte s

/-- The writes of FCOMP, steps 1 to 7 (R200). The text is fixed before the engine is used. -/
def State.makeComposite (s : State) (k : BitVec 1) : State :=
  (((s.openMessage.feedText s.slotText).closeMessage).storeComp k).clearSlots

/-- FSTART (R196). -/
def execFstart (s : State) : Host.Outcome State Fault Refusal :=
  .next (s.clearSlots.respond 0x0000)

/-- FLATCH c (R197). -/
def execFlatch (c : BitVec 2) (s : State) : Host.Outcome State Fault Refusal :=
  if s.ph = .done then .next ((s.latch c).respond 0x0000) else .next (s.refuse phaseError)

/-- FCOMP s (R200): the phase is checked before the slots (R251). -/
def execFcomp (k : BitVec 1) (s : State) : Host.Outcome State Fault Refusal :=
  if s.ph = .absorb then .next (s.refuse phaseError)
  else if s.allSlotsValid then .next ((s.makeComposite k).respond 0x0000)
  else .next (s.refuse notValid)

end Sys2Proof.Machine
end

