-- ==== Sys2Proof/Machine/Comparator.lean ====
section
/-! DEFINITION. Machine/Comparator.lean: the comparison as a function (R215), the verdict strings (R217), and the commands
CMP and VRDS (R216, R219). -/

namespace Sys2Proof.Machine

/-- The TamperVerdict (R15, R215). -/
inductive TamperVerdict where
  | notTampered
  | tampered
deriving DecidableEq, Repr

/-- `compare(fpA, fpB)`: string equality of the composite texts (R215). -/
def compareFingerprints (a b : ImageFingerprint) : TamperVerdict :=
  if a.composite = b.composite then .notTampered else .tampered

/-- The verdict on the two composite registers: 512-bit equality (R215). -/
def State.verdict (s : State) : TamperVerdict :=
  if s.compAt 0 = s.compAt 1 then .notTampered else .tampered

/-- The verdict's code (R216, R217). -/
def TamperVerdict.code : TamperVerdict → RspWord
  | .notTampered => 0x0000
  | .tampered => 0x0001

/-- The verdict's string as byte codes (R217). -/
def TamperVerdict.text : TamperVerdict → List Byte
  | .notTampered =>
    [0x49, 0x6d, 0x61, 0x67, 0x65, 0x20, 0x6e, 0x6f, 0x74, 0x20, 0x74, 0x61, 0x6d, 0x70, 0x65, 0x72, 0x65, 0x64]
  | .tampered => [0x49, 0x6d, 0x61, 0x67, 0x65, 0x20, 0x74, 0x61, 0x6d, 0x70, 0x65, 0x72, 0x65, 0x64]

/-- CMP (R216). -/
def execCmp (s : State) : Host.Outcome State Fault Refusal :=
  if s.bothCompsValid then .next (s.respond s.verdict.code) else .next (s.refuse notValid)

/-- VRDS j (R219): `0x00` at and past the end of the string. -/
def execVrds (j : BitVec 5) (s : State) : Host.Outcome State Fault Refusal :=
  if s.bothCompsValid then .next (s.respond ((s.verdict.text.getD j.toNat 0x00).setWidth 16))
  else .next (s.refuse notValid)

end Sys2Proof.Machine
end

