-- ==== Sys2Proof/Machine/System.lean ====
section
/-! DEFINITION. Machine/System.lean: the system commands NOP, STAT, RST (R230, R232, R234). -/

namespace Sys2Proof.Machine

/-- NOP (R230). -/
def execNop (s : State) : Host.Outcome State Fault Refusal :=
  .next (s.respond 0x0000)

/-- STAT r (R232): never refused. -/
def execStat (r : BitVec 2) (s : State) : Host.Outcome State Fault Refusal :=
  .next (s.respond ((s.statByte r).setWidth 16))

/-- RST (R234): the registers without a reset value keep their bits. -/
def execRst (s : State) : Host.Outcome State Fault Refusal :=
  .next (s.resetControl.respond 0x0000)

end Sys2Proof.Machine
end

