-- ==== Sys2Proof/Machine/Dispatch.lean ====
section
/-! DEFINITION. Machine/Dispatch.lean: one arm per command, each a call of its meaning. -/

namespace Sys2Proof.Machine

def exec (i : Instr) (s : State) : Host.Outcome State Fault Refusal :=
  match i with
  | .nop => Sys2Proof.Machine.execNop s
  | .hinit => Sys2Proof.Machine.execHinit s
  | .hpush b => Sys2Proof.Machine.execHpush b s
  | .hfin => Sys2Proof.Machine.execHfin s
  | .rdx src j => Sys2Proof.Machine.execRdx src j s
  | .fstart => Sys2Proof.Machine.execFstart s
  | .flatch c => Sys2Proof.Machine.execFlatch c s
  | .fcomp k => Sys2Proof.Machine.execFcomp k s
  | .cmp => Sys2Proof.Machine.execCmp s
  | .vrds j => Sys2Proof.Machine.execVrds j s
  | .stat r => Sys2Proof.Machine.execStat r s
  | .rst => Sys2Proof.Machine.execRst s

end Sys2Proof.Machine
end

