-- ==== Sys2Proof/Machine/Step.lean ====
section
/-! DEFINITION. Machine/Step.lean: one step is one action of the host (R70, R80), and where the next command comes from. -/

namespace Sys2Proof.Machine

/-- One step: the host's oldest action is taken. A command is decoded and executed whole, response included (R70, R86), a
reserved word is refused (R87), a reset event resets (R281), also when it falls inside a command (R283). With no action
left the engine keeps all its state (R260, R297, log 14). -/
def step (s : State) : Host.Outcome State Fault Refusal :=
  match s.host with
  | [] => .next s
  | .cmd w :: _ =>
    match decode w with
    | .ok i => exec i s.takeEvent
    | .error _ => .next s.takeEvent.refuseReserved
  | .reset :: _ => .next s.takeEvent.resetEvent
  | .cmdAbandoned _ :: _ => .next s.takeEvent.resetEvent

/-- `s` with the 16-bit command word `w` as the host's next action, so that the next step accepts and runs it (log 1). -/
def State.withFetchWord (s : State) (_nbits w : Nat) : State :=
  s.offer (BitVec.ofNat 16 w)

end Sys2Proof.Machine
end

