-- ==== Sys2Proof/Machine/Assembler.lean ====
section
/-! DEFINITION. Machine/Assembler.lean: the assembler syntax (R90) and the pseudo-instructions (R91). -/

namespace Sys2Proof.Machine

/-- Blank characters of a line (log 13). -/
def isBlank (c : Char) : Bool := c == ' ' || c == '\t' || c == '\r' || c == '\n'

/-- The characters without the blanks at either end. -/
def trimBlanks (cs : List Char) : List Char := ((cs.dropWhile isBlank).reverse.dropWhile isBlank).reverse

/-- The value of a digit in base 10 or 16 (log 13 on letter case). -/
def digitValue (base : Nat) (c : Char) : Option Nat :=
  let v := if '0' ≤ c ∧ c ≤ '9' then some (c.toNat - '0'.toNat)
    else if 'a' ≤ c ∧ c ≤ 'f' then some (c.toNat - 'a'.toNat + 10)
    else if 'A' ≤ c ∧ c ≤ 'F' then some (c.toNat - 'A'.toNat + 10)
    else none
  v.bind (fun d => if d < base then some d else none)

/-- The value of a nonempty row of digits. -/
def digitsValue (base : Nat) (cs : List Char) : Option Nat :=
  if cs = [] then none
  else cs.foldl (fun acc c => acc.bind (fun a => (digitValue base c).map (fun d => a * base + d))) (some 0)

/-- A number, decimal or `0x` hexadecimal (R90). -/
def numberValue : List Char → Option Nat
  | '0' :: 'x' :: ds => digitsValue 16 ds
  | ds => digitsValue 10 ds

/-- The parts of a text between commas. -/
def splitCommas : List Char → List (List Char)
  | [] => [[]]
  | c :: cs =>
    if c = ',' then [] :: splitCommas cs
    else match splitCommas cs with
      | [] => [[c]]
      | p :: ps => (c :: p) :: ps

/-- The operands after the mnemonic; none when nothing stands there. -/
def operandValues (cs : List Char) : Option (List Nat) :=
  if trimBlanks cs = [] then some [] else (splitCommas cs).mapM (fun p => numberValue (trimBlanks p))

/-- The operand as a field of `width` bits, if it fits (R83, R85). -/
def operandField (width v : Nat) : Option (BitVec width) :=
  if v < 2 ^ width then some (BitVec.ofNat width v) else none

/-- The command a mnemonic and its operands name, with the operand counts and legal values of rule R85. -/
def assembleParts (mnemonic : String) (ops : List Nat) : Option Instr :=
  match mnemonic, ops with
  | "NOP", [] => some .nop
  | "HINIT", [] => some .hinit
  | "HPUSH", [b] => (operandField 8 b).map .hpush
  | "HFIN", [] => some .hfin
  | "RDX", [s, j] =>
    (operandField 3 s).bind (fun s => (operandField 7 j).bind (fun j => if s = 7 then none else some (.rdx s j)))
  | "FSTART", [] => some .fstart
  | "FLATCH", [c] => (operandField 2 c).map .flatch
  | "FCOMP", [s] => (operandField 1 s).map .fcomp
  | "CMP", [] => some .cmp
  | "VRDS", [j] => (operandField 5 j).map .vrds
  | "STAT", [r] => (operandField 2 r).map .stat
  | "RST", [] => some .rst
  | _, _ => none

/-- One line of assembler text (R90): `some none` for a line with no command, `none` for a line that is not of the syntax.
A `;` starts a comment. -/
def assembleLine (line : List Char) : Option (Option Instr) :=
  let text := trimBlanks (line.takeWhile (· != ';'))
  if text = [] then some none
  else
    let mnemonic := text.takeWhile (fun c => !isBlank c)
    (operandValues (text.drop mnemonic.length)).bind
      (fun ops => (assembleParts (String.ofList mnemonic) ops).map some)

/-- `HASH m` (R91). -/
def hashCommands (m : List Byte) : List Instr := .hinit :: (m.map .hpush ++ [.hfin])

/-- `RDDIGEST s` (R91). -/
def rddigestCommands (src : BitVec 3) : List Instr :=
  (List.range 128).map (fun j => .rdx src (BitVec.ofNat 7 j))

/-- `FPRINT s, full, r, g, b` (R91). -/
def fprintCommands (k : BitVec 1) (full r g b : List Byte) : List Instr :=
  .fstart :: (hashCommands full ++ [.flatch 0] ++ hashCommands r ++ [.flatch 1] ++ hashCommands g ++ [.flatch 2]
    ++ hashCommands b ++ [.flatch 3, .fcomp k])

/-- `VERDICT` (R91). -/
def verdictCommands : List Instr := (List.range 32).map (fun j => .vrds (BitVec.ofNat 5 j))

end Sys2Proof.Machine
end

