-- ==== Sys2Proof/Safety.lean ====
section
/-! DEFINITION. Safety.lean: the terms claims are made in: the invariant of R43, what a command answers and leaves alone,
an open message and its bytes, states that agree on everything the spec specifies, and a sequence of commands. -/

namespace Sys2Proof.Machine

/-! ## What a command leaves alone, and what it answers -/

/-- Every byte of the block buffer reads as before. -/
def SameBytes (s t : State) : Prop := ∀ a, t.buf.read a = s.buf.read a

/-- The transient registers are unchanged (R21 to R23). -/
def SameTransients (s t : State) : Prop := t.v = s.v ∧ t.w = s.w ∧ t.t = s.t

/-- The engine's registers are unchanged: `H`, the transients, `BUF`, `N`, `LEN`, `OVF`, `PH`. -/
def SameEngine (s t : State) : Prop :=
  t.h = s.h ∧ SameTransients s t ∧ SameBytes s t ∧ t.n = s.n ∧ t.len = s.len ∧ t.ovf = s.ovf ∧ t.ph = s.ph

/-- `ERR` and `ERRCODE` are unchanged. -/
def SameErrors (s t : State) : Prop := t.err = s.err ∧ t.errcode = s.errcode

/-- `SLOT` and `SV` are unchanged. -/
def SameSlots (s t : State) : Prop := t.slot = s.slot ∧ t.sv = s.sv

/-- `COMP` and `CV` are unchanged. -/
def SameComps (s t : State) : Prop := t.comp = s.comp ∧ t.cv = s.cv

/-- The one response of the command is `r`, and the host's later actions stay (R80). -/
def Answers (s t : State) (r : RspWord) : Prop := t.responses = s.responses ++ [r] ∧ t.host = s.host

/-- The command only answered `r` (an accepted read, R67). -/
def OnlyAnswers (s t : State) (r : RspWord) : Prop :=
  SameEngine s t ∧ SameErrors s t ∧ SameSlots s t ∧ SameComps s t ∧ Answers s t r

/-- The command was refused with `code` (R247): `ERR` and `ERRCODE`, the response, and nothing else. -/
def RefusedWith (s t : State) (code : BitVec 8) : Prop :=
  SameEngine s t ∧ SameSlots s t ∧ SameComps s t ∧ t.err = true ∧
    t.errcode = (if s.err then s.errcode else code) ∧ Answers s t (0x8000#16 + code.setWidth 16)

/-! ## The invariant -/

/-- Rule R43, with the canonical form of the buffer and `N = 0` in phase IDLE. -/
structure State.Inv (s : State) : Prop where
  bufCanonical : s.buf.wf = true
  phaseLegal : s.ph.code ≤ 2
  idleEmpty : s.ph = .idle → s.n = 0
  doneEmpty : s.ph = .done → s.n = 0
  openLength : s.ph = .absorb → s.len.toNat % 1024 = 8 * s.n.toNat
  errcodeZero : s.err = false ↔ s.errcode = 0x00
  errcodeLegal : s.errcode ≤ 3

/-! ## An open message -/

/-- The bytes absorbed since HINIT are exactly `m`, with `8 * |m| < 2^128`: its whole blocks are compressed into `H`, the
rest stands in `BUF`, and `LEN` counts its bits (R111 to R113, R117). -/
structure MessageOpen (s : State) (m : List Byte) : Prop where
  isOpen : s.ph = .absorb
  fits : 8 * m.length < 2 ^ 128
  noOverflow : s.ovf = false
  bufCanonical : s.buf.wf = true
  fill : s.n.toNat = m.length % 128
  length : s.len.toNat = 8 * m.length
  hashed : s.h = (blocks m).foldl compress config.pIV
  buffered : ∀ k, k < m.length % 128 → m[128 * (m.length / 128) + k]? = some (s.buf.read k)

/-! ## Agreement on what is specified -/

/-- Two states that agree on every register and byte that holds a specified value, and may differ in all others: `H` outside
IDLE, `LEN` and `BUF[0..N-1]` in ABSORB, the valid slots and composites, and all control registers (R45, R120, U10 to
U12). -/
structure Agree (s s' : State) : Prop where
  canonical : s.buf.wf = true ∧ s'.buf.wf = true
  control : s.ph = s'.ph ∧ s.n = s'.n ∧ s.err = s'.err ∧ s.errcode = s'.errcode ∧ s.ovf = s'.ovf ∧ s.sv = s'.sv ∧ s.cv = s'.cv
  ports : s.host = s'.host ∧ s.responses = s'.responses
  hash : s.ph ≠ .idle → s.h = s'.h
  length : s.ph = .absorb → s.len = s'.len
  bytes : s.ph = .absorb → ∀ a, a < s.n.toNat → s.buf.read a = s'.buf.read a
  slots : ∀ c, s.slotValid c = true → s.slotAt c = s'.slotAt c
  comps : ∀ k, s.compValid k = true → s.compAt k = s'.compAt k

/-! ## Reserved words, as R87 and R248 list them -/

/-- The word is reserved: `op` 0xb to 0xe; `op` 0 with another bit set; a nonzero must-be-zero bit of an assigned opcode;
RDX with source 7. -/
abbrev SpecReserved (w : CmdWord) : Prop :=
  let op := (w >>> 12).toNat
  let sel := ((w >>> 8) &&& 0xf).toNat
  let imm := (w &&& 0xff).toNat
  (0xb ≤ op ∧ op ≤ 0xe)
  ∨ ((op = 0x0 ∨ op = 0x1 ∨ op = 0x3 ∨ op = 0x5 ∨ op = 0x8 ∨ op = 0xf) ∧ (sel ≠ 0 ∨ imm ≠ 0))
  ∨ (op = 0x2 ∧ sel ≠ 0)
  ∨ (op = 0x4 ∧ (8 ≤ sel ∨ 128 ≤ imm ∨ sel = 7))
  ∨ ((op = 0x6 ∨ op = 0xa) ∧ (4 ≤ sel ∨ imm ≠ 0))
  ∨ (op = 0x7 ∧ (2 ≤ sel ∨ imm ≠ 0))
  ∨ (op = 0x9 ∧ (sel ≠ 0 ∨ 32 ≤ imm))

/-! ## Text of a digest, character by character -/

/-- Character `j` of a digest: nibble `15 - (j mod 16)` of word `j div 16`, nibble `m` being bits `4m+3` to `4m` (R63), as
its ASCII code (R180). -/
def digestChar (x : Words8) (j : Nat) : Nat :=
  let word := [x.w0, x.w1, x.w2, x.w3, x.w4, x.w5, x.w6, x.w7].getD (j / 16) 0
  let nibble := word.toNat / 16 ^ (15 - j % 16) % 16
  if nibble ≤ 9 then 0x30 + nibble else 0x61 + (nibble - 10)

/-! ## Who may write what (R46), and when a command is refused (R246) -/

/-- The columns of the access table of rule R46. -/
inductive Reg where
  | hash
  | buffer
  | fill
  | length
  | overflow
  | phase
  | slots
  | slotValids
  | comps
  | compValids
  | errors
deriving DecidableEq, Repr

/-- The "w" marks of the access table (R46). -/
def mayWrite : Instr → List Reg
  | .nop => []
  | .hinit => [.hash, .fill, .length, .overflow, .phase]
  | .hpush _ => [.hash, .buffer, .fill, .length, .overflow]
  | .hfin => [.hash, .buffer, .fill, .phase]
  | .rdx _ _ => []
  | .fstart => [.slotValids]
  | .flatch _ => [.slots, .slotValids]
  | .fcomp _ => [.hash, .buffer, .fill, .length, .overflow, .phase, .slotValids, .comps, .compValids]
  | .cmp => []
  | .vrds _ => []
  | .stat _ => []
  | .rst => [.fill, .overflow, .phase, .slotValids, .compValids, .errors]

/-- The code a command is refused with in a state, if it is refused: the table of rule R246 in the order of rule R251. -/
def refusalCode (s : State) : Instr → Option (BitVec 8)
  | .nop | .hinit | .fstart | .stat _ | .rst => none
  | .hpush _ | .hfin => if s.ph = .absorb then none else some 0x02
  | .flatch _ => if s.ph = .done then none else some 0x02
  | .rdx src _ =>
    if src.toNat ≤ 3 then (if s.sv.getLsbD src.toNat then none else some 0x03)
    else if src.toNat ≤ 5 then (if s.cv.getLsbD (src.toNat - 4) then none else some 0x03)
    else if src.toNat = 6 then (if s.ph = .done then none else some 0x02)
    else some 0x01
  | .fcomp _ => if s.ph = .absorb then some 0x02 else if s.sv = 0b1111 then none else some 0x03
  | .cmp | .vrds _ => if s.cv = 0b11 then none else some 0x03

/-- Bytes read as one big-endian number. -/
def bigEndian (bytes : List Byte) : Nat := bytes.foldl (fun acc b => acc * 256 + b.toNat) 0

/-! ## Sequences of commands (R70, R297) -/

/-- The commands executed in order, stopping where one does not complete. -/
def execAll : List Instr → State → Host.Outcome State Fault Refusal
  | [], s => .next s
  | i :: is, s =>
    match exec i s with
    | .next t => execAll is t
    | .fault r => .fault r
    | .refused r => .refused r

/-- A run is clean when no response says refused (R297). -/
def CleanResponses (rs : List RspWord) : Prop := ∀ r ∈ rs, r.getLsbD 15 = false

end Sys2Proof.Machine
end

