-- ==== Sys2Proof/Certificates/Slice0/Obligations.lean ====
section
/-! DEFINITION. Certificates/Slice0/Obligations.lean: the statements for the provers, from the numbered rules of spec/. -/

open Sys2Proof Sys2Proof.Machine

/-! ## Reset, the step, decoding -/

/-- R45, the registers that have a reset value. (What the others hold in `State.reset` is the model's choice, log 4, and is
not stated.) -/
def Obligations.ResetLeavesControlZero : Prop :=
  State.reset.ph = .idle ∧ State.reset.n = 0 ∧ State.reset.err = false ∧ State.reset.errcode = 0x00 ∧
    State.reset.ovf = false ∧ State.reset.sv = 0b0000 ∧ State.reset.cv = 0b00 ∧
    ∀ r : BitVec 2, State.reset.statByte r = 0x00

/-- R283: a reset event, between commands or inside one, leaves the reset state of the control registers; an abandoned
command gives no response, and earlier responses stay. -/
def Obligations.ResetEventAbandonsCommand : Prop :=
  ∀ (s : State) (e : HostEvent) (rest : List HostEvent), s.host = e :: rest →
    (e = .reset ∨ ∃ w, e = .cmdAbandoned w) →
    ∃ t, step s = .next t ∧ t.ph = .idle ∧ t.n = 0 ∧ t.err = false ∧ t.errcode = 0x00 ∧ t.ovf = false ∧
      t.sv = 0b0000 ∧ t.cv = 0b00 ∧ t.responses = s.responses ∧ t.host = rest

/-- R70, R73, R86: when the host's next action is a word that decodes to `i`, the step is `exec i` on the state with that
action taken; nothing else is added around it. -/
def Obligations.StepRunsDecodedCommand : Prop :=
  ∀ (s : State) (w : CmdWord) (rest : List HostEvent) (i : Instr), s.host = .cmd w :: rest → decode w = .ok i →
    step s = exec i { s with host := rest }

/-- A word placed by `withFetchWord` is the one the next step executes, for every well-formed command. -/
def Obligations.PlacedWordIsExecuted : Prop :=
  ∀ (s : State) (i : Instr), i.WellFormed → step (s.withFetchWord 16 (encode i).toNat) = exec i s

/-- R87, R248: a reserved word is refused by decoding alone with IllegalCommand, response `0x8001`, and changes nothing but
`ERR` and `ERRCODE`. -/
def Obligations.ReservedWordIsRefused : Prop :=
  ∀ (s : State) (w : CmdWord) (rest : List HostEvent), s.host = .cmd w :: rest → SpecReserved w →
    ∃ t, step s = .next t ∧ RefusedWith { s with host := rest } t 0x01 ∧ t.responses = s.responses ++ [0x8001]

/-- With no action of the host left the engine keeps all its state (read from R260 and R297, log 14). -/
def Obligations.EngineWaitsForHost : Prop :=
  ∀ s : State, s.host = [] → step s = .next s

/-- R296: every step ends in a next state; the engine never hangs. -/
def Obligations.EveryStepCompletes : Prop :=
  ∀ s : State, ∃ t, step s = .next t

/-- R296, R116: the padding loop runs at most 127 times, stops exactly at the first fill count of 112, and what it did is a
run of zero bytes. -/
def Obligations.PaddingLoopStops : Prop :=
  ∀ s : State, ∃ k, k ≤ 127 ∧ State.absorbZeros 127 s = s.absorbAll (List.replicate k 0x00) ∧
    (State.absorbZeros 127 s).n = 112 ∧ ∀ j, j < k → (s.absorbAll (List.replicate j 0x00)).n ≠ 112

/-- The invariant holds at reset: the facts of R43 and R35, with the buffer in canonical form (the model's choice, log 9)
and `N = 0` in phase IDLE (inferred from R45). -/
def Obligations.InvariantAtReset : Prop := State.reset.Inv

/-- Every step keeps the invariant, from every state that meets it. `State.Inv` is the facts of R43; `ERR = 0` exactly when
`ERRCODE = 0x00`, of R35; and two clauses that no rule states: `N = 0` in phase IDLE, inferred from the reset values of R45,
and the canonical form of the buffer, which is the model's choice (log 9, DESIGN CHOICE). -/
def Obligations.StepKeepsInvariant : Prop :=
  ∀ s : State, s.Inv → ∃ t, step s = .next t ∧ t.Inv

/-- R45, R120: two states that agree on what is specified still agree after a step; in particular they give the same
responses. So no command lets an unspecified register, a stale byte or a consumed slot be seen. -/
def Obligations.UnspecifiedRegistersUnobservable : Prop :=
  ∀ s s' : State, Agree s s' → ∃ t t', step s = .next t ∧ step s' = .next t' ∧ Agree t t'

/-- Decoding the word of a well-formed command gives the command back, with every operand (R83, R85). -/
def Obligations.DecodeInvertsEncode : Prop :=
  ∀ i : Instr, i.WellFormed → decode (encode i) = .ok i

/-- A word that decodes is the word of the command it decodes to, and the command is well-formed: each legal word has one
meaning. -/
def Obligations.EncodeInvertsDecode : Prop :=
  ∀ (w : CmdWord) (i : Instr), decode w = .ok i → i.WellFormed ∧ encode i = w

/-- R86: every word is either exactly one command with legal operands or reserved as R87 and R248 list the reserved words. -/
def Obligations.EveryWordIsOneCommandOrReserved : Prop :=
  ∀ w : CmdWord,
    (SpecReserved w ∧ ∃ r, decode w = .error r) ∨
      (¬ SpecReserved w ∧ ∃ i, decode w = .ok i ∧ i.WellFormed)

/-- R86: the rows of the opcode map are disjoint. -/
def Obligations.OpcodeRowsAreDisjoint : Prop :=
  opcodeRows.Pairwise (fun a b => ∀ w : CmdWord, ¬ (a.selects w = true ∧ b.selects w = true))

/-- R85: some words of the table in 95_test_vectors.md section 7, one of every family. -/
def Obligations.SpecWordsDecode : Prop :=
  decode 0x0000 = .ok .nop ∧ decode 0x1000 = .ok .hinit ∧ decode 0x2061 = .ok (.hpush 0x61) ∧
    decode 0x467f = .ok (.rdx 6 127) ∧ decode 0x6300 = .ok (.flatch 3) ∧ decode 0x7100 = .ok (.fcomp 1) ∧
    decode 0x901f = .ok (.vrds 31) ∧ decode 0xa300 = .ok (.stat 3) ∧ decode 0xf000 = .ok .rst

/-! ## Every command at once -/

/-- R89, R80: every command gives exactly one response, bits 14 to 8 zero; executed, its data are as the rule lists them;
refused, it is one of the three error words. -/
def Obligations.OneResponsePerCommand : Prop :=
  ∀ (i : Instr) (s : State), ∃ t r, exec i s = .next t ∧ Answers s t r ∧ (r >>> 8) &&& 0x7f = 0 ∧
    (r.getLsbD 15 = true → r = 0x8001 ∨ r = 0x8002 ∨ r = 0x8003) ∧
    (r.getLsbD 15 = false →
      match i with
      | .rdx _ _ => (0x30 ≤ r ∧ r ≤ 0x39) ∨ (0x61 ≤ r ∧ r ≤ 0x66)
      | .vrds _ => r ≤ 0x7f
      | .stat q => r = (s.statByte q).setWidth 16
      | .cmp => r = 0x0000 ∨ r = 0x0001
      | .nop | .hinit | .hpush _ | .hfin | .fstart | .flatch _ | .fcomp _ | .rst => r = 0x0000)

/-- R246 to R251: a command word is refused exactly where the rules name a cause, with the code they name and the effect of
R247 alone: a reserved word by decoding, whatever the state; a decoded command in the states of R249 and R250, in the order
of R251. Otherwise it is executed, and only RST then touches `ERR` and `ERRCODE`. -/
def Obligations.RefusalsAreExactlyThese : Prop :=
  ∀ (s : State) (w : CmdWord) (rest : List HostEvent), s.host = .cmd w :: rest →
    ∃ t, step s = .next t ∧
      (SpecReserved w → RefusedWith { s with host := rest } t 0x01) ∧
      (¬ SpecReserved w → ∃ i, decode w = .ok i ∧
        match refusalCode { s with host := rest } i with
        | some code => RefusedWith { s with host := rest } t code
        | none => ∃ r, Answers { s with host := rest } t r ∧ r.getLsbD 15 = false ∧
            (i ≠ .rst → SameErrors { s with host := rest } t))

/-- R31, R35, R39, R255: outside RST a set `ERR` stays set and keeps `ERRCODE`, and no `CV` bit is cleared. -/
def Obligations.ErrorAndCompositeFlagsAreSticky : Prop :=
  ∀ (i : Instr) (s : State), i ≠ .rst → ∃ t, exec i s = .next t ∧
    (s.err = true → t.err = true ∧ t.errcode = s.errcode) ∧ (∀ k, s.compValid k = true → t.compValid k = true)

/-- R297: over any commands but RST, started with `ERR = 0`, `ERR = 0` at the end exactly when no response was a refusal. -/
def Obligations.CleanRunHasNoError : Prop :=
  ∀ (is : List Instr) (s : State), .rst ∉ is → s.err = false →
    ∃ t rs, execAll is s = .next t ∧ t.responses = s.responses ++ rs ∧ rs.length = is.length ∧
      (t.err = false ↔ CleanResponses rs)

/-- R30: the phase's codes, and every change of phase. -/
def Obligations.PhaseChanges : Prop :=
  Phase.code .idle = 0 ∧ Phase.code .absorb = 1 ∧ Phase.code .done = 2 ∧ State.reset.ph = .idle ∧
    ∀ (i : Instr) (s : State), ∃ t, exec i s = .next t ∧
      match i with
      | .hinit => t.ph = .absorb
      | .hfin => t.ph = if s.ph = .absorb then .done else s.ph
      | .fcomp _ => t.ph = if s.ph ≠ .absorb ∧ s.sv = 0b1111 then .done else s.ph
      | .rst => t.ph = .idle
      | .nop | .hpush _ | .rdx _ _ | .fstart | .flatch _ | .cmp | .vrds _ | .stat _ => t.ph = s.ph

/-- R46: an executed command writes no register that the access table gives it no "w" for, and a refused one writes `ERR`
and `ERRCODE` at most. (That the refusal of the term `rdx 7 j`, which no word decodes to, is one is log 11.) -/
def Obligations.CommandsWriteOnlyTheirRegisters : Prop :=
  ∀ (i : Instr) (s : State), ∃ t, exec i s = .next t ∧
    let written := if refusalCode s i = none then mayWrite i else [.errors]
    (.hash ∉ written → t.h = s.h) ∧ (.buffer ∉ written → SameBytes s t) ∧
    (.fill ∉ written → t.n = s.n) ∧ (.length ∉ written → t.len = s.len) ∧
    (.overflow ∉ written → t.ovf = s.ovf) ∧ (.phase ∉ written → t.ph = s.ph) ∧
    (.slots ∉ written → t.slot = s.slot) ∧ (.slotValids ∉ written → t.sv = s.sv) ∧
    (.comps ∉ written → t.comp = s.comp) ∧ (.compValids ∉ written → t.cv = s.cv) ∧
    (.errors ∉ written → SameErrors s t) ∧ t.host = s.host

/-- The transient registers `V`, `W`, `t` stay where the command compresses no block: everywhere but in the HPUSH that fills
a block, an accepted HFIN and an accepted FCOMP. The model's choice (log 5, DESIGN CHOICE): the spec leaves their value
between commands open (R21 to R23). -/
def Obligations.TransientsStayWithoutCompression : Prop :=
  ∀ (i : Instr) (s : State), ∃ t, exec i s = .next t ∧
    ((match i with
      | .hpush _ => s.ph = .absorb ∧ s.n = 127
      | .hfin => s.ph = .absorb
      | .fcomp _ => s.ph ≠ .absorb ∧ s.sv = 0b1111
      | .nop | .hinit | .rdx _ _ | .fstart | .flatch _ | .cmp | .vrds _ | .stat _ | .rst => False) ∨
      SameTransients s t)

/-! ## The message commands -/

/-- R111: HINIT in every phase. (The eight words of `P_IV` are said by `HinitLoadsInitialWords`; the transients by
`TransientsStayWithoutCompression`.) -/
def Obligations.HinitOpensMessage : Prop :=
  decode 0x1000 = .ok .hinit ∧
    ∀ s : State, ∃ t, exec .hinit s = .next t ∧ t.h = config.pIV ∧ t.len = 0 ∧ t.n = 0 ∧ t.ovf = false ∧
      t.ph = .absorb ∧ SameBytes s t ∧ SameErrors s t ∧ SameSlots s t ∧ SameComps s t ∧ Answers s t 0x0000

/-- HINIT leaves in `H` the eight words that R7 gives for `P_IV`. The spec marks the list as from general knowledge, and the
model presumes it (log 7, PRESUMED). -/
def Obligations.HinitLoadsInitialWords : Prop :=
  ∀ s : State, ∃ t, exec .hinit s = .next t ∧
    t.h = ⟨0xcbbb9d5dc1059ed8, 0x629a292a367cd507, 0x9159015a3070dd17, 0x152fecd8f70e5939,
           0x67332667ffc00b31, 0x8eb44a8768581511, 0xdb0c2e0d64f98fa7, 0x47b5481dbefa4fa4⟩

/-- R112, R113: HPUSH. In phase ABSORB the byte goes to `BUF[N]` and nowhere else, and the 128th byte of a block compresses
it; in the other phases it is refused with PhaseError. -/
def Obligations.HpushAbsorbsOneByte : Prop :=
  (∀ b : Byte, decode (0x2000 + b.setWidth 16) = .ok (.hpush b)) ∧
    (∀ (s : State) (b : Byte), s.ph ≠ .absorb → ∃ t, exec (.hpush b) s = .next t ∧ RefusedWith s t 0x02) ∧
    ∀ (s : State) (b : Byte), s.ph = .absorb → s.buf.wf = true →
      ∃ t, exec (.hpush b) s = .next t ∧
        t.buf.read s.n.toNat = b ∧ (∀ a, a ≠ s.n.toNat → t.buf.read a = s.buf.read a) ∧
        (if s.n = 127 then t.n = 0 ∧ t.h = compress s.h ((List.range 127).map s.buf.read ++ [b])
         else t.n.toNat = s.n.toNat + 1 ∧ t.h = s.h) ∧
        t.len.toNat = (s.len.toNat + 8) % 2 ^ 128 ∧
        (t.ovf = true ↔ s.ovf = true ∨ 2 ^ 128 ≤ s.len.toNat + 8) ∧
        t.ph = .absorb ∧ SameErrors s t ∧ SameSlots s t ∧ SameComps s t ∧ Answers s t 0x0000

/-- R116: HFIN, refused with PhaseError outside phase ABSORB. One block when `N <= 111`, two when `N >= 112`; the last block is what the buffer holds
afterwards, so the bytes below `N` of an only block are unchanged. -/
def Obligations.HfinPadsAndCloses : Prop :=
  decode 0x3000 = .ok .hfin ∧
    (∀ s : State, s.ph ≠ .absorb → ∃ t, exec .hfin s = .next t ∧ RefusedWith s t 0x02) ∧
    ∀ s : State, s.ph = .absorb → s.buf.wf = true →
      ∃ t, exec .hfin s = .next t ∧
        (s.n.toNat ≤ 111 →
          t.block = (List.range s.n.toNat).map s.buf.read ++ [0x80] ++ List.replicate (111 - s.n.toNat) 0x00
            ++ be128 s.len ∧
          t.h = compress s.h t.block) ∧
        (112 ≤ s.n.toNat →
          t.block = List.replicate 112 0x00 ++ be128 s.len ∧
          t.h = compress (compress s.h ((List.range s.n.toNat).map s.buf.read ++ [0x80]
            ++ List.replicate (127 - s.n.toNat) 0x00)) t.block) ∧
        (∀ a, 128 ≤ a → t.buf.read a = s.buf.read a) ∧
        t.ph = .done ∧ t.n = 0 ∧ t.len = s.len ∧ t.ovf = s.ovf ∧ SameErrors s t ∧ SameSlots s t ∧ SameComps s t ∧
        Answers s t 0x0000

/-- R62: HFIN leaves the length big-endian in `BUF[112..127]`, so word 14 of the last block is `LEN[127:64]` and word 15 is
`LEN[63:0]`. -/
def Obligations.LengthFieldIsBigEndian : Prop :=
  ∀ s : State, s.ph = .absorb → s.buf.wf = true →
    ∃ t, exec .hfin s = .next t ∧
      (∀ k, k < 16 → t.buf.read (112 + k) = s.len.extractLsb' (120 - 8 * k) 8) ∧
      (blockWords t.block)[14]? = some (s.len.extractLsb' 64 64) ∧
      (blockWords t.block)[15]? = some (s.len.extractLsb' 0 64)

/-- R111, R117: HINIT opens the empty message, whatever the history. -/
def Obligations.HinitStartsEmptyMessage : Prop :=
  ∀ s : State, s.buf.wf = true → ∃ t, exec .hinit s = .next t ∧ MessageOpen t []

/-- R113, R117: HPUSH adds its byte to the open message. -/
def Obligations.HpushExtendsMessage : Prop :=
  ∀ (s : State) (m : List Byte) (b : Byte), MessageOpen s m → 8 * (m.length + 1) < 2 ^ 128 →
    ∃ t, exec (.hpush b) s = .next t ∧ MessageOpen t (m ++ [b])

/-- R116, R117, R158: HFIN of an open message leaves its hash state. -/
def Obligations.HfinFinishesHash : Prop :=
  ∀ (s : State) (m : List Byte), MessageOpen s m →
    ∃ t, exec .hfin s = .next t ∧ t.h = hashState config.pIV m ∧ t.ph = .done ∧ t.n = 0 ∧
      t.len.toNat = 8 * m.length ∧ t.ovf = false

/-- R117: the commands of `HASH m`, from any state, leave `hash_state(m)` in `H`. -/
def Obligations.HashLeavesHashState : Prop :=
  ∀ (s : State) (m : List Byte), s.buf.wf = true → 8 * m.length < 2 ^ 128 →
    ∃ t, execAll (hashCommands m) s = .next t ∧ t.h = hashState config.pIV m ∧ t.ph = .done ∧ t.n = 0 ∧
      t.len.toNat = 8 * m.length ∧ t.ovf = false ∧ t.buf.wf = true ∧ SameErrors s t ∧ SameSlots s t ∧ SameComps s t ∧
      t.responses = s.responses ++ List.replicate (m.length + 2) 0x0000

/-! ## The digest formatter -/

/-- R185, R63: RDX returns the named character of the named source and changes nothing; it is refused with NotValid for an
invalid slot or composite, and with PhaseError for `H` outside phase DONE. -/
def Obligations.RdxReadsDigestCharacter : Prop :=
  (∀ (src : BitVec 3) (j : BitVec 7), src ≠ 7 →
      decode (0x4000 + 256 * src.setWidth 16 + j.setWidth 16) = .ok (.rdx src j)) ∧
    ∀ (s : State) (j : BitVec 7),
      (∀ c : BitVec 2, s.sv.getLsbD c.toNat = true →
        ∃ t r, exec (.rdx (c.setWidth 3) j) s = .next t ∧ OnlyAnswers s t r ∧
          r.toNat = digestChar (s.slotAt c) j.toNat) ∧
      (∀ c : BitVec 2, s.sv.getLsbD c.toNat = false →
        ∃ t, exec (.rdx (c.setWidth 3) j) s = .next t ∧ RefusedWith s t 0x03) ∧
      (∀ k : BitVec 1, s.cv.getLsbD k.toNat = true →
        ∃ t r, exec (.rdx (4 + k.setWidth 3) j) s = .next t ∧ OnlyAnswers s t r ∧
          r.toNat = digestChar (s.compAt k) j.toNat) ∧
      (∀ k : BitVec 1, s.cv.getLsbD k.toNat = false →
        ∃ t, exec (.rdx (4 + k.setWidth 3) j) s = .next t ∧ RefusedWith s t 0x03) ∧
      (s.ph = .done →
        ∃ t r, exec (.rdx 6 j) s = .next t ∧ OnlyAnswers s t r ∧ r.toNat = digestChar s.h j.toNat) ∧
      (s.ph ≠ .done → ∃ t, exec (.rdx 6 j) s = .next t ∧ RefusedWith s t 0x02)

/-- R91: `RDDIGEST` returns the 128 characters of the source's text, in order, and changes nothing else. -/
def Obligations.RddigestReadsWholeText : Prop :=
  ∀ (s : State) (src : BitVec 3) (x : Words8), s.digestSource src = .ok x →
    ∃ t, execAll (rddigestCommands src) s = .next t ∧
      t.responses = s.responses ++ (hex512 x).map (fun c => c.setWidth 16) ∧
      SameEngine s t ∧ SameErrors s t ∧ SameSlots s t ∧ SameComps s t

/-! ## The fingerprinter -/

/-- R196: FSTART clears `SV` and nothing else. -/
def Obligations.FstartClearsSlotValids : Prop :=
  decode 0x5000 = .ok .fstart ∧
    ∀ s : State, ∃ t, exec .fstart s = .next t ∧ t.sv = 0b0000 ∧ t.slot = s.slot ∧ SameEngine s t ∧ SameErrors s t ∧
      SameComps s t ∧ Answers s t 0x0000

/-- R197: FLATCH in phase DONE copies `H` into the slot and sets its valid bit, and the other slots and bits stay; in the
other phases it is refused with PhaseError. -/
def Obligations.FlatchKeepsDigest : Prop :=
  (∀ c : BitVec 2, decode (0x6000 + 256 * c.setWidth 16) = .ok (.flatch c)) ∧
    (∀ (s : State) (c : BitVec 2), s.ph ≠ .done → ∃ t, exec (.flatch c) s = .next t ∧ RefusedWith s t 0x02) ∧
    ∀ (s : State) (c : BitVec 2), s.ph = .done →
      ∃ t, exec (.flatch c) s = .next t ∧ t.slotAt c = s.h ∧ t.slotValid c = true ∧
        (∀ d, d ≠ c → t.slotAt d = s.slotAt d ∧ t.slotValid d = s.slotValid d) ∧
        SameEngine s t ∧ SameErrors s t ∧ SameComps s t ∧ Answers s t 0x0000

/-- R200: FCOMP with no message open and all four slots valid makes the composite; with a message open it is refused with
PhaseError, else with a slot missing with NotValid. -/
def Obligations.FcompMakesComposite : Prop :=
  (∀ k : BitVec 1, decode (0x7000 + 256 * k.setWidth 16) = .ok (.fcomp k)) ∧
    (∀ (s : State) (k : BitVec 1), s.ph = .absorb → ∃ t, exec (.fcomp k) s = .next t ∧ RefusedWith s t 0x02) ∧
    (∀ (s : State) (k : BitVec 1), s.ph ≠ .absorb → s.sv ≠ 0b1111 →
      ∃ t, exec (.fcomp k) s = .next t ∧ RefusedWith s t 0x03) ∧
    ∀ (s : State) (k : BitVec 1), s.ph ≠ .absorb → s.sv = 0b1111 → s.buf.wf = true →
      ∃ t, exec (.fcomp k) s = .next t ∧
        t.compAt k = hashState config.pIV
          (hex512 (s.slotAt 0) ++ hex512 (s.slotAt 1) ++ hex512 (s.slotAt 2) ++ hex512 (s.slotAt 3)) ∧
        t.h = t.compAt k ∧ t.compValid k = true ∧
        (∀ d, d ≠ k → t.compAt d = s.compAt d ∧ t.compValid d = s.compValid d) ∧
        t.block = [0x80] ++ List.replicate 111 0x00 ++ be128 4096 ∧ (∀ a, 128 ≤ a → t.buf.read a = s.buf.read a) ∧
        t.ph = .done ∧ t.n = 0 ∧ t.len = 4096 ∧ t.ovf = false ∧ t.sv = 0b0000 ∧ t.slot = s.slot ∧ SameErrors s t ∧
        Answers s t 0x0000

/-- R201: the composite message, its padding and its five blocks. -/
def Obligations.CompositeMessageHasFiveBlocks : Prop :=
  ∀ s : State,
    s.slotText.length = 512 ∧
    (∀ c ∈ s.slotText, (0x30 ≤ c ∧ c ≤ 0x39) ∨ (0x61 ≤ c ∧ c ≤ 0x66)) ∧
    pad s.slotText = s.slotText ++ [0x80] ++ List.replicate 111 0x00 ++ be128 4096 ∧
    (be128 4096).drop 14 = [0x10, 0x00] ∧
    (pad s.slotText).length = 640 ∧
    blocks (pad s.slotText) =
      [hex512 (s.slotAt 0), hex512 (s.slotAt 1), hex512 (s.slotAt 2), hex512 (s.slotAt 3),
        [0x80] ++ List.replicate 111 0x00 ++ be128 4096]

/-- R202: `FPRINT` leaves the composite of `fingerprint(full, r, g, b)` in the named composite register, every command
of it answering `0x0000`. -/
def Obligations.FprintMakesFingerprint : Prop :=
  ∀ (s : State) (k : BitVec 1) (full r g b : List Byte), s.buf.wf = true →
    full.length < 2 ^ 125 → r.length < 2 ^ 125 → g.length < 2 ^ 125 → b.length < 2 ^ 125 →
    ∃ t, execAll (fprintCommands k full r g b) s = .next t ∧
      t.compAt k = hashState config.pIV (hash config.pIV full ++ hash config.pIV r ++ hash config.pIV g
        ++ hash config.pIV b) ∧
      hex512 (t.compAt k) = (fingerprint config.pIV full r g b).composite ∧ t.compValid k = true ∧
      SameErrors s t ∧
      t.responses = s.responses ++ List.replicate (full.length + r.length + g.length + b.length + 14) 0x0000

/-- R204, R220: the composite depends on the four slots alone, whatever the earlier history and the register chosen. -/
def Obligations.SameSlotsGiveSameComposite : Prop :=
  ∀ (s s' : State) (k k' : BitVec 1), s.ph ≠ .absorb → s'.ph ≠ .absorb → s.sv = 0b1111 → s'.sv = 0b1111 →
    s.buf.wf = true → s'.buf.wf = true → s.slot = s'.slot →
    ∃ t t', exec (.fcomp k) s = .next t ∧ exec (.fcomp k') s' = .next t' ∧ t.compAt k = t'.compAt k'

/-! ## The comparator -/

/-- R216: CMP, refused with NotValid unless both composites are valid. -/
def Obligations.CmpGivesVerdictBit : Prop :=
  decode 0x8000 = .ok .cmp ∧
    (∀ s : State, s.cv ≠ 0b11 → ∃ t, exec .cmp s = .next t ∧ RefusedWith s t 0x03) ∧
    ∀ s : State, s.cv = 0b11 →
      ∃ t, exec .cmp s = .next t ∧ OnlyAnswers s t (if s.compAt 0 = s.compAt 1 then 0x0000 else 0x0001)

/-- R217, R219: VRDS, the two strings as the byte codes of R217; refused with NotValid unless both composites are valid. -/
def Obligations.VrdsReadsVerdictText : Prop :=
  (∀ j : BitVec 5, decode (0x9000 + j.setWidth 16) = .ok (.vrds j)) ∧
    (∀ (s : State) (j : BitVec 5), s.cv ≠ 0b11 → ∃ t, exec (.vrds j) s = .next t ∧ RefusedWith s t 0x03) ∧
    ∀ (s : State) (j : BitVec 5), s.cv = 0b11 →
      ∃ t, exec (.vrds j) s = .next t ∧
        OnlyAnswers s t
          (if s.compAt 0 = s.compAt 1 then
            [0x49#16, 0x6d, 0x61, 0x67, 0x65, 0x20, 0x6e, 0x6f, 0x74, 0x20, 0x74, 0x61, 0x6d, 0x70, 0x65, 0x72, 0x65,
              0x64].getD j.toNat 0x0000
           else
            [0x49#16, 0x6d, 0x61, 0x67, 0x65, 0x20, 0x74, 0x61, 0x6d, 0x70, 0x65, 0x72, 0x65, 0x64].getD j.toNat
              0x0000)

/-- R91: `VERDICT` returns the verdict string followed by zeros, 32 characters. -/
def Obligations.VerdictReadsWholeText : Prop :=
  ∀ s : State, s.cv = 0b11 →
    ∃ t, execAll verdictCommands s = .next t ∧
      t.responses = s.responses ++ s.verdict.text.map (fun c => c.setWidth 16)
        ++ List.replicate (32 - s.verdict.text.length) 0x0000 ∧
      SameEngine s t ∧ SameErrors s t ∧ SameSlots s t ∧ SameComps s t

/-- R215: the verdict on the registers is the comparison of the two composite texts. -/
def Obligations.VerdictIsTextEquality : Prop :=
  ∀ (s : State) (a b : ImageFingerprint), a.composite = hex512 (s.compAt 0) → b.composite = hex512 (s.compAt 1) →
    s.verdict = compareFingerprints a b ∧ (s.verdict = .notTampered ↔ a.composite = b.composite) ∧
      (s.verdict = .notTampered ↔ s.compAt 0 = s.compAt 1)

/-! ## The system commands -/

/-- R230: NOP. -/
def Obligations.NopOnlyAnswers : Prop :=
  decode 0x0000 = .ok .nop ∧ ∀ s : State, ∃ t, exec .nop s = .next t ∧ OnlyAnswers s t 0x0000

/-- R34, R232: STAT returns the four status bytes, in every phase, and changes nothing. -/
def Obligations.StatReadsStatusBytes : Prop :=
  (∀ r : BitVec 2, decode (0xa000 + 256 * r.setWidth 16) = .ok (.stat r)) ∧
    ∀ (s : State) (r : BitVec 2), ∃ t v, exec (.stat r) s = .next t ∧ OnlyAnswers s t v ∧
      v.toNat =
        match r.toNat with
        | 0 => s.ph.code.toNat + 4 * s.err.toNat + 8 * s.ovf.toNat
        | 1 => s.errcode.toNat
        | 2 => s.sv.toNat + 16 * s.cv.toNat
        | _ => s.n.toNat

/-- R234: RST puts back the registers that have a reset value and keeps the bits of the others. -/
def Obligations.RstRestoresControl : Prop :=
  decode 0xf000 = .ok .rst ∧
    ∀ s : State, ∃ t, exec .rst s = .next t ∧ t.ph = .idle ∧ t.n = 0 ∧ t.err = false ∧ t.errcode = 0x00 ∧
      t.ovf = false ∧ t.sv = 0b0000 ∧ t.cv = 0b00 ∧ t.h = s.h ∧ SameTransients s t ∧ SameBytes s t ∧ t.len = s.len ∧
      t.slot = s.slot ∧ t.comp = s.comp ∧ Answers s t 0x0000

/-! ## The functions of the datapath -/

/-- R110: the padding is one `0x80` byte, the fewest zero bytes, and the bit length in 16 big-endian bytes; the padded
length is a positive multiple of 128. -/
def Obligations.PadIsMinimalAndWhole : Prop :=
  ∀ m : List Byte, 8 * m.length < 2 ^ 128 →
    ∃ (z : Nat) (tail : List Byte), pad m = m ++ [0x80] ++ List.replicate z 0x00 ++ tail ∧
      (z : Int) = (111 - (m.length : Int)) % 128 ∧ (8 * m.length + 8 + 8 * z + 128) % 1024 = 0 ∧
      (∀ z', (8 * m.length + 8 + 8 * z' + 128) % 1024 = 0 → z ≤ z') ∧
      tail.length = 16 ∧ bigEndian tail = 8 * m.length ∧
      (pad m).length = m.length + 17 + z ∧ 128 ∣ (pad m).length ∧ 128 ≤ (pad m).length

/-- R114: `blocks` cuts a whole number of blocks in order, and the padded message has `floor((Lbytes + 16) / 128) + 1`. -/
def Obligations.BlocksCutInOrder : Prop :=
  (∀ (p : List Byte) (nb : Nat), p.length = 128 * nb →
      (blocks p).length = nb ∧ (blocks p).flatten = p ∧ (∀ b ∈ blocks p, b.length = 128)) ∧
    ∀ m : List Byte, 8 * m.length < 2 ^ 128 → (blocks (pad m)).length = (m.length + 16) / 128 + 1

/-- R145: the schedule's first sixteen words are the block's big-endian words, the rest follow the recurrence. -/
def Obligations.ScheduleFollowsRecurrence : Prop :=
  ∀ block : List Byte, block.length = 128 →
    (schedule block).length = 80 ∧
    (∀ i, i < 16 → ((schedule block).getD i 0).toNat = bigEndian ((block.drop (8 * i)).take 8)) ∧
    (∀ i, 16 ≤ i → i < 80 →
      (schedule block).getD i 0 =
        ssig1 ((schedule block).getD (i - 2) 0) + (schedule block).getD (i - 7) 0
          + ssig0 ((schedule block).getD (i - 15) 0) + (schedule block).getD (i - 16) 0)

/-- R10: bit `i` of `rotr(x, n)` is bit `(i + n) mod 64` of `x`. -/
def Obligations.RotrMovesBits : Prop :=
  ∀ (x : Word) (n i : Nat), 1 ≤ n → n ≤ 63 → i < 64 → (rotr x n).getLsbD i = x.getLsbD ((i + n) % 64)

/-- R142: each bit of `Ch` is chosen by the bit of `e`; each bit of `Maj` is the majority of the three bits. -/
def Obligations.ChChoosesAndMajVotes : Prop :=
  ∀ (x y z : Word) (i : Nat), i < 64 →
    (ch x y z).getLsbD i = (if x.getLsbD i then y.getLsbD i else z.getLsbD i) ∧
    ((maj x y z).getLsbD i = true ↔ 2 ≤ (x.getLsbD i).toNat + (y.getLsbD i).toNat + (z.getLsbD i).toNat)

/-- R140, R141: each bit of the schedule functions and of the round functions, with the rules' examples. A bit above 63 reads
0, so the third term of `ssig0` and `ssig1` is a shift; all other terms are rotations. -/
def Obligations.SigmaFunctionsMoveBits : Prop :=
  (∀ (x : Word) (i : Nat), i < 64 →
    (ssig0 x).getLsbD i = ((x.getLsbD ((i + 1) % 64) ^^ x.getLsbD ((i + 8) % 64)) ^^ x.getLsbD (i + 7)) ∧
    (ssig1 x).getLsbD i = ((x.getLsbD ((i + 19) % 64) ^^ x.getLsbD ((i + 61) % 64)) ^^ x.getLsbD (i + 6)) ∧
    (bsig0 x).getLsbD i =
      ((x.getLsbD ((i + 28) % 64) ^^ x.getLsbD ((i + 34) % 64)) ^^ x.getLsbD ((i + 39) % 64)) ∧
    (bsig1 x).getLsbD i =
      ((x.getLsbD ((i + 14) % 64) ^^ x.getLsbD ((i + 18) % 64)) ^^ x.getLsbD ((i + 41) % 64))) ∧
    ssig0 1 = 0x8100000000000000 ∧ ssig1 1 = 0x0000200000000008 ∧
    bsig0 1 = 0x0000001042000000 ∧ bsig1 1 = 0x0004400000800000

/-- R150, R152, R154: the constant `K`, the two temporaries, and the round, in exact arithmetic modulo 2^64. The new `a` is
the old `a` plus `T1` plus `T2` (C1), and every right-hand side is a value from before the round. -/
def Obligations.RoundAddsOldA : Prop :=
  roundConstant = 0x428a2f98d728ae22 ∧
    ∀ (v : Words8) (w : Word),
      (temp1 v w).toNat =
        (v.w7.toNat + (bsig1 v.w4).toNat + (ch v.w4 v.w5 v.w6).toNat + roundConstant.toNat + w.toNat) % 2 ^ 64 ∧
      (temp2 v).toNat = ((bsig0 v.w0).toNat + (maj v.w0 v.w1 v.w2).toNat) % 2 ^ 64 ∧
      (Machine.round v w).w0.toNat = (v.w0.toNat + (temp1 v w).toNat + (temp2 v).toNat) % 2 ^ 64 ∧
      (Machine.round v w).w1 = v.w0 ∧ (Machine.round v w).w2 = v.w1 ∧ (Machine.round v w).w3 = v.w2 ∧
      (Machine.round v w).w4.toNat = (v.w3.toNat + (temp1 v w).toNat) % 2 ^ 64 ∧
      (Machine.round v w).w5 = v.w4 ∧ (Machine.round v w).w6 = v.w5 ∧ (Machine.round v w).w7 = v.w6

/-- R143, R145, R150, R152, R156: `compress` written out. There are the 80 schedule words and the working variables before
and after each of 80 rounds in increasing order, each fixed by the equation the rule gives for it, with the same `K` in every
round; the result is the sum of the first and the last working variables, word by word modulo 2^64. With the example of
R156. -/
def Obligations.CompressRunsEightyRounds : Prop :=
  (∀ (hin : Words8) (block : List Byte), block.length = 128 →
    ∃ (w : Nat → Word) (v : Nat → Words8),
      (∀ i, i < 16 → (w i).toNat = bigEndian ((block.drop (8 * i)).take 8)) ∧
      (∀ i, 16 ≤ i → i < 80 → w i = ssig1 (w (i - 2)) + w (i - 7) + ssig0 (w (i - 15)) + w (i - 16)) ∧
      v 0 = hin ∧
      (∀ i, i < 80 →
        let t1 := (v i).w7 + bsig1 (v i).w4 + ch (v i).w4 (v i).w5 (v i).w6 + 0x428a2f98d728ae22 + w i
        let t2 := bsig0 (v i).w0 + maj (v i).w0 (v i).w1 (v i).w2
        v (i + 1) = ⟨(v i).w0 + t1 + t2, (v i).w0, (v i).w1, (v i).w2, (v i).w3 + t1, (v i).w4, (v i).w5, (v i).w6⟩) ∧
      compress hin block =
        ⟨hin.w0 + (v 80).w0, hin.w1 + (v 80).w1, hin.w2 + (v 80).w2, hin.w3 + (v 80).w3,
         hin.w4 + (v 80).w4, hin.w5 + (v 80).w5, hin.w6 + (v 80).w6, hin.w7 + (v 80).w7⟩) ∧
    (compress config.pIV (pad [])).w0 = 0x3ef8df4ca7af5d24

/-- R166: the 146 micro-operations complete from every state and leave `H = compress(H, BUF)`; they write `H` and the
transient registers only. -/
def Obligations.MicroOperationsCompress : Prop :=
  ∀ s : State, ∃ t, s.microCompress = some t ∧ t.h = compress s.h s.block ∧ SameBytes s t ∧ t.n = s.n ∧
    t.len = s.len ∧ t.ph = s.ph ∧ t.ovf = s.ovf ∧ SameErrors s t ∧ SameSlots s t ∧ SameComps s t ∧
    t.responses = s.responses ∧ t.host = s.host

/-- R184: two states have the same text exactly when all eight words are equal. -/
def Obligations.HexTextIsInjective : Prop :=
  ∀ x y : Words8, hex512 x = hex512 y ↔ x = y

/-- R183, R63: a digest is exactly 128 lowercase hexadecimal characters, character `j` as R63 places it. (For a message of
2^128 bits or more the hash state is the model's choice, log 10; the text has this form all the same.) -/
def Obligations.DigestIs128LowercaseHex : Prop :=
  ∀ (iv : Words8) (m : List Byte),
    (hash iv m).length = 128 ∧ (∀ c ∈ hash iv m, (0x30 ≤ c ∧ c ≤ 0x39) ∨ (0x61 ≤ c ∧ c ≤ 0x66)) ∧
    ∀ j, j < 128 → ((hash iv m).getD j 0).toNat = digestChar (hashState iv m) j
end

