-- ==== Sys2Proof/Laws/Memory.lean ====
section
/-! SUPPORT. Laws/Memory.lean: the block buffer's laws: a read after a write, the canonical form and that every operation
keeps it, and that equal readings are equal data. -/

namespace Sys2Proof.Machine

@[simp] theorem Memory.read_nil (a : Nat) : Memory.read [] a = unlistedByte := rfl

theorem Memory.read_cons (a' : Nat) (b' : Byte) (m : Memory) (a : Nat) :
    Memory.read ((a', b') :: m) a = if a = a' then b' else m.read a := rfl

theorem Memory.wfFrom_cons (lo a : Nat) (b : Byte) (m : Memory) :
    Memory.wfFrom lo ((a, b) :: m) = true ↔
      lo ≤ a ∧ a < 128 ∧ b ≠ unlistedByte ∧ Memory.wfFrom (a + 1) m = true := by
  simp [Memory.wfFrom, and_assoc]

theorem Memory.wfFrom_of_le {lo lo' : Nat} {m : Memory} (h : Memory.wfFrom lo m = true) (hl : lo' ≤ lo) :
    Memory.wfFrom lo' m = true := by
  cases m with
  | nil => rfl
  | cons c m =>
    obtain ⟨a, b⟩ := c
    rw [Memory.wfFrom_cons] at h ⊢
    exact ⟨by omega, h.2⟩

/-- Below the first listed index nothing is listed. -/
theorem Memory.read_below {lo : Nat} {m : Memory} (h : Memory.wfFrom lo m = true) {a : Nat} (ha : a < lo) :
    m.read a = unlistedByte := by
  induction m generalizing lo with
  | nil => rfl
  | cons c m ih =>
    obtain ⟨a', b'⟩ := c
    rw [Memory.wfFrom_cons] at h
    rw [Memory.read_cons, if_neg (by omega)]
    exact ih h.2.2.2 (by omega)

/-- Nothing is listed from 128 on. -/
theorem Memory.read_beyond {lo : Nat} {m : Memory} (h : Memory.wfFrom lo m = true) {a : Nat} (ha : 128 ≤ a) :
    m.read a = unlistedByte := by
  induction m generalizing lo with
  | nil => rfl
  | cons c m ih =>
    obtain ⟨a', b'⟩ := c
    rw [Memory.wfFrom_cons] at h
    rw [Memory.read_cons, if_neg (by omega)]
    exact ih h.2.2.2

theorem Memory.read_listByte {lo : Nat} {m : Memory} (h : Memory.wfFrom (lo + 1) m = true) (b : Byte) (c : Nat) :
    (Memory.listByte lo b m).read c = if c = lo then b else m.read c := by
  unfold Memory.listByte
  split
  · next hb =>
    split
    · next hc => rw [hc, hb, Memory.read_below h (by omega)]
    · rfl
  · rfl

theorem Memory.wfFrom_listByte {lo a : Nat} {m : Memory} (h : Memory.wfFrom (a + 1) m = true) (hlo : lo ≤ a)
    (ha : a < 128) (b : Byte) : Memory.wfFrom lo (Memory.listByte a b m) = true := by
  unfold Memory.listByte
  split
  · exact Memory.wfFrom_of_le h (by omega)
  · next hb => rw [Memory.wfFrom_cons]; exact ⟨hlo, ha, hb, h⟩

/-- A write leaves every other byte alone. -/
theorem Memory.read_write_ne (m : Memory) {a c : Nat} (b : Byte) (hc : c ≠ a) : (m.write a b).read c = m.read c := by
  induction m with
  | nil => unfold Memory.write Memory.listByte; split <;> simp [Memory.read, hc]
  | cons p m ih =>
    obtain ⟨a', b'⟩ := p
    unfold Memory.write Memory.listByte
    split
    · split <;> simp [Memory.read, hc]
    · split
      · next h => subst h; split <;> simp [Memory.read, hc]
      · simp only [Memory.read_cons, ih]

/-- A read after a write to the same place gives the value written. -/
theorem Memory.read_write_eq {lo : Nat} {m : Memory} (h : Memory.wfFrom lo m = true) (a : Nat) (b : Byte) :
    (m.write a b).read a = b := by
  induction m generalizing lo with
  | nil => unfold Memory.write Memory.listByte; split <;> simp_all [Memory.read]
  | cons p m ih =>
    obtain ⟨a', b'⟩ := p
    have h' := (Memory.wfFrom_cons lo a' b' m).1 h
    unfold Memory.write
    split
    · next hlt =>
      rw [Memory.read_listByte (lo := a) ((Memory.wfFrom_cons _ _ _ _).2 ⟨by omega, h'.2⟩), if_pos rfl]
    · split
      · next hlt heq =>
        subst heq
        rw [Memory.read_listByte h'.2.2.2, if_pos rfl]
      · next hlt hne => rw [Memory.read_cons, if_neg hne]; exact ih h'.2.2.2

theorem Memory.wfFrom_write {lo : Nat} {m : Memory} (h : Memory.wfFrom lo m = true) {a : Nat} (hlo : lo ≤ a)
    (ha : a < 128) (b : Byte) : Memory.wfFrom lo (m.write a b) = true := by
  induction m generalizing lo with
  | nil => exact Memory.wfFrom_listByte rfl hlo ha b
  | cons p m ih =>
    obtain ⟨a', b'⟩ := p
    have h' := (Memory.wfFrom_cons lo a' b' m).1 h
    unfold Memory.write
    split
    · exact Memory.wfFrom_listByte ((Memory.wfFrom_cons _ _ _ _).2 ⟨by omega, h'.2⟩) hlo ha b
    · split
      · next heq => subst heq; exact Memory.wfFrom_listByte h'.2.2.2 hlo ha b
      · rw [Memory.wfFrom_cons]; exact ⟨h'.1, h'.2.1, h'.2.2.1, ih h'.2.2.2 (by omega)⟩

/-- A write to the buffer keeps the canonical form. -/
theorem Memory.wf_write {m : Memory} (h : m.wf = true) {a : Nat} (ha : a < 128) (b : Byte) : (m.write a b).wf = true :=
  Memory.wfFrom_write h (Nat.zero_le a) ha b

/-- `MemWrite` keeps the canonical form. -/
theorem Memory.wf_memWrite {m : Memory} (h : m.wf = true) {addr n : Nat} (ha : addr + n ≤ 128) (v : BitVec (8 * n)) :
    (m.memWrite addr n v).wf = true := by
  unfold Memory.memWrite
  have key : ∀ (l : List Nat) (m : Memory), (∀ k ∈ l, k < n) → m.wf = true →
      (l.foldl (fun m k => m.write (addr + k) (v.extractLsb' (8 * (n - 1 - k)) 8)) m).wf = true := by
    intro l
    induction l with
    | nil => intro m _ hm; exact hm
    | cons k l ih =>
      intro m hl hm
      have hk := hl k (by simp)
      exact ih _ (fun j hj => hl j (by simp [hj])) (Memory.wf_write hm (by omega) _)
  exact key _ _ (fun k hk => List.mem_range.1 hk) h

theorem Memory.wfFrom_ofBytes (f : Nat → Byte) (k lo : Nat) (h : lo + k ≤ 128) :
    Memory.wfFrom lo (Memory.ofBytes f lo k) = true := by
  induction k generalizing lo with
  | zero => rfl
  | succ k ih => exact Memory.wfFrom_listByte (ih (lo + 1) (by omega)) (le_refl lo) (by omega) _

/-- A whole buffer made from its bytes is canonical. -/
theorem Memory.wf_ofBytes (f : Nat → Byte) : (Memory.ofBytes f 0 128).wf = true :=
  Memory.wfFrom_ofBytes f 128 0 (by omega)

theorem Memory.read_ofBytes (f : Nat → Byte) (k lo a : Nat) (h : lo + k ≤ 128) :
    (Memory.ofBytes f lo k).read a = if lo ≤ a ∧ a < lo + k then f a else unlistedByte := by
  induction k generalizing lo with
  | zero => rw [if_neg (by omega)]; rfl
  | succ k ih =>
    rw [Memory.ofBytes, Memory.read_listByte (Memory.wfFrom_ofBytes f k (lo + 1) (by omega)), ih (lo + 1) (by omega)]
    by_cases ha : a = lo
    · subst ha; rw [if_pos rfl, if_pos ⟨by omega, by omega⟩]
    · rw [if_neg ha]
      by_cases h2 : lo + 1 ≤ a ∧ a < lo + 1 + k
      · rw [if_pos h2, if_pos ⟨by omega, by omega⟩]
      · rw [if_neg h2, if_neg (by omega)]

/-- Two canonical buffers that read the same everywhere are the same data. -/
theorem Memory.eq_of_reads {lo : Nat} {m m' : Memory} (h : Memory.wfFrom lo m = true) (h' : Memory.wfFrom lo m' = true)
    (hr : ∀ a, m.read a = m'.read a) : m = m' := by
  induction m generalizing lo m' with
  | nil =>
    cases m' with
    | nil => rfl
    | cons p' m' =>
      obtain ⟨a', b'⟩ := p'
      have := hr a'
      rw [Memory.wfFrom_cons] at h'
      rw [Memory.read_cons, if_pos rfl] at this
      exact absurd this.symm h'.2.2.1
  | cons p m ih =>
    obtain ⟨a, b⟩ := p
    have hc := (Memory.wfFrom_cons _ _ _ _).1 h
    cases m' with
    | nil =>
      have := hr a
      rw [Memory.read_cons, if_pos rfl] at this
      exact absurd this hc.2.2.1
    | cons p' m' =>
      obtain ⟨a', b'⟩ := p'
      have hc' := (Memory.wfFrom_cons _ _ _ _).1 h'
      have ha : a = a' := by
        rcases Nat.lt_trichotomy a a' with hlt | heq | hgt
        · have := hr a
          rw [Memory.read_cons, if_pos rfl, Memory.read_cons, if_neg (by omega),
            Memory.read_below hc'.2.2.2 (by omega)] at this
          exact absurd this hc.2.2.1
        · exact heq
        · have := hr a'
          rw [Memory.read_cons, if_neg (by omega), Memory.read_below hc.2.2.2 (by omega), Memory.read_cons,
            if_pos rfl] at this
          exact absurd this.symm hc'.2.2.1
      subst ha
      have hb : b = b' := by
        have := hr a
        rwa [Memory.read_cons, if_pos rfl, Memory.read_cons, if_pos rfl] at this
      subst hb
      have := ih hc.2.2.2 hc'.2.2.2 (fun c => by
        have hrc := hr c
        rw [Memory.read_cons, Memory.read_cons] at hrc
        by_cases hca : c = a
        · subst hca
          rw [Memory.read_below hc.2.2.2 (by omega), Memory.read_below hc'.2.2.2 (by omega)]
        · rwa [if_neg hca, if_neg hca] at hrc)
      rw [this]

end Sys2Proof.Machine
end

