-- ==== Sys2Proof/Laws/State.lean ====
section
/-! SUPPORT. Laws/State.lean: for each named update of the state, what each field is after it, true by rfl, so that no
proof unfolds a record update. (Written `by rfl`, so that simp rewrites with them as equations and the kernel never has to
compare two whole states.) -/

namespace Sys2Proof.Machine

variable (s : State)

/-! ### putByte -/

@[simp] theorem State.h_putByte (x : Byte) : (s.putByte x).h = s.h := by rfl
@[simp] theorem State.v_putByte (x : Byte) : (s.putByte x).v = s.v := by rfl
@[simp] theorem State.w_putByte (x : Byte) : (s.putByte x).w = s.w := by rfl
@[simp] theorem State.t_putByte (x : Byte) : (s.putByte x).t = s.t := by rfl
@[simp] theorem State.buf_putByte (x : Byte) : (s.putByte x).buf = s.buf.write s.n.toNat x := by rfl
@[simp] theorem State.n_putByte (x : Byte) : (s.putByte x).n = s.n := by rfl
@[simp] theorem State.len_putByte (x : Byte) : (s.putByte x).len = s.len := by rfl
@[simp] theorem State.ph_putByte (x : Byte) : (s.putByte x).ph = s.ph := by rfl
@[simp] theorem State.err_putByte (x : Byte) : (s.putByte x).err = s.err := by rfl
@[simp] theorem State.ovf_putByte (x : Byte) : (s.putByte x).ovf = s.ovf := by rfl
@[simp] theorem State.errcode_putByte (x : Byte) : (s.putByte x).errcode = s.errcode := by rfl
@[simp] theorem State.slot_putByte (x : Byte) : (s.putByte x).slot = s.slot := by rfl
@[simp] theorem State.sv_putByte (x : Byte) : (s.putByte x).sv = s.sv := by rfl
@[simp] theorem State.comp_putByte (x : Byte) : (s.putByte x).comp = s.comp := by rfl
@[simp] theorem State.cv_putByte (x : Byte) : (s.putByte x).cv = s.cv := by rfl
@[simp] theorem State.host_putByte (x : Byte) : (s.putByte x).host = s.host := by rfl
@[simp] theorem State.responses_putByte (x : Byte) : (s.putByte x).responses = s.responses := by rfl
@[simp] theorem State.draws_putByte (x : Byte) : (s.putByte x).draws = s.draws := by rfl

/-! ### setFill -/

@[simp] theorem State.h_setFill (k : BitVec 7) : (s.setFill k).h = s.h := by rfl
@[simp] theorem State.v_setFill (k : BitVec 7) : (s.setFill k).v = s.v := by rfl
@[simp] theorem State.w_setFill (k : BitVec 7) : (s.setFill k).w = s.w := by rfl
@[simp] theorem State.t_setFill (k : BitVec 7) : (s.setFill k).t = s.t := by rfl
@[simp] theorem State.buf_setFill (k : BitVec 7) : (s.setFill k).buf = s.buf := by rfl
@[simp] theorem State.n_setFill (k : BitVec 7) : (s.setFill k).n = k := by rfl
@[simp] theorem State.len_setFill (k : BitVec 7) : (s.setFill k).len = s.len := by rfl
@[simp] theorem State.ph_setFill (k : BitVec 7) : (s.setFill k).ph = s.ph := by rfl
@[simp] theorem State.err_setFill (k : BitVec 7) : (s.setFill k).err = s.err := by rfl
@[simp] theorem State.ovf_setFill (k : BitVec 7) : (s.setFill k).ovf = s.ovf := by rfl
@[simp] theorem State.errcode_setFill (k : BitVec 7) : (s.setFill k).errcode = s.errcode := by rfl
@[simp] theorem State.slot_setFill (k : BitVec 7) : (s.setFill k).slot = s.slot := by rfl
@[simp] theorem State.sv_setFill (k : BitVec 7) : (s.setFill k).sv = s.sv := by rfl
@[simp] theorem State.comp_setFill (k : BitVec 7) : (s.setFill k).comp = s.comp := by rfl
@[simp] theorem State.cv_setFill (k : BitVec 7) : (s.setFill k).cv = s.cv := by rfl
@[simp] theorem State.host_setFill (k : BitVec 7) : (s.setFill k).host = s.host := by rfl
@[simp] theorem State.responses_setFill (k : BitVec 7) : (s.setFill k).responses = s.responses := by rfl
@[simp] theorem State.draws_setFill (k : BitVec 7) : (s.setFill k).draws = s.draws := by rfl

/-! ### setHash -/

@[simp] theorem State.h_setHash (x : Words8) : (s.setHash x).h = x := by rfl
@[simp] theorem State.v_setHash (x : Words8) : (s.setHash x).v = s.v := by rfl
@[simp] theorem State.w_setHash (x : Words8) : (s.setHash x).w = s.w := by rfl
@[simp] theorem State.t_setHash (x : Words8) : (s.setHash x).t = s.t := by rfl
@[simp] theorem State.buf_setHash (x : Words8) : (s.setHash x).buf = s.buf := by rfl
@[simp] theorem State.n_setHash (x : Words8) : (s.setHash x).n = s.n := by rfl
@[simp] theorem State.len_setHash (x : Words8) : (s.setHash x).len = s.len := by rfl
@[simp] theorem State.ph_setHash (x : Words8) : (s.setHash x).ph = s.ph := by rfl
@[simp] theorem State.err_setHash (x : Words8) : (s.setHash x).err = s.err := by rfl
@[simp] theorem State.ovf_setHash (x : Words8) : (s.setHash x).ovf = s.ovf := by rfl
@[simp] theorem State.errcode_setHash (x : Words8) : (s.setHash x).errcode = s.errcode := by rfl
@[simp] theorem State.slot_setHash (x : Words8) : (s.setHash x).slot = s.slot := by rfl
@[simp] theorem State.sv_setHash (x : Words8) : (s.setHash x).sv = s.sv := by rfl
@[simp] theorem State.comp_setHash (x : Words8) : (s.setHash x).comp = s.comp := by rfl
@[simp] theorem State.cv_setHash (x : Words8) : (s.setHash x).cv = s.cv := by rfl
@[simp] theorem State.host_setHash (x : Words8) : (s.setHash x).host = s.host := by rfl
@[simp] theorem State.responses_setHash (x : Words8) : (s.setHash x).responses = s.responses := by rfl
@[simp] theorem State.draws_setHash (x : Words8) : (s.setHash x).draws = s.draws := by rfl

/-! ### setPhase -/

@[simp] theorem State.h_setPhase (p : Phase) : (s.setPhase p).h = s.h := by rfl
@[simp] theorem State.v_setPhase (p : Phase) : (s.setPhase p).v = s.v := by rfl
@[simp] theorem State.w_setPhase (p : Phase) : (s.setPhase p).w = s.w := by rfl
@[simp] theorem State.t_setPhase (p : Phase) : (s.setPhase p).t = s.t := by rfl
@[simp] theorem State.buf_setPhase (p : Phase) : (s.setPhase p).buf = s.buf := by rfl
@[simp] theorem State.n_setPhase (p : Phase) : (s.setPhase p).n = s.n := by rfl
@[simp] theorem State.len_setPhase (p : Phase) : (s.setPhase p).len = s.len := by rfl
@[simp] theorem State.ph_setPhase (p : Phase) : (s.setPhase p).ph = p := by rfl
@[simp] theorem State.err_setPhase (p : Phase) : (s.setPhase p).err = s.err := by rfl
@[simp] theorem State.ovf_setPhase (p : Phase) : (s.setPhase p).ovf = s.ovf := by rfl
@[simp] theorem State.errcode_setPhase (p : Phase) : (s.setPhase p).errcode = s.errcode := by rfl
@[simp] theorem State.slot_setPhase (p : Phase) : (s.setPhase p).slot = s.slot := by rfl
@[simp] theorem State.sv_setPhase (p : Phase) : (s.setPhase p).sv = s.sv := by rfl
@[simp] theorem State.comp_setPhase (p : Phase) : (s.setPhase p).comp = s.comp := by rfl
@[simp] theorem State.cv_setPhase (p : Phase) : (s.setPhase p).cv = s.cv := by rfl
@[simp] theorem State.host_setPhase (p : Phase) : (s.setPhase p).host = s.host := by rfl
@[simp] theorem State.responses_setPhase (p : Phase) : (s.setPhase p).responses = s.responses := by rfl
@[simp] theorem State.draws_setPhase (p : Phase) : (s.setPhase p).draws = s.draws := by rfl

/-! ### respond -/

@[simp] theorem State.h_respond (r : RspWord) : (s.respond r).h = s.h := by rfl
@[simp] theorem State.v_respond (r : RspWord) : (s.respond r).v = s.v := by rfl
@[simp] theorem State.w_respond (r : RspWord) : (s.respond r).w = s.w := by rfl
@[simp] theorem State.t_respond (r : RspWord) : (s.respond r).t = s.t := by rfl
@[simp] theorem State.buf_respond (r : RspWord) : (s.respond r).buf = s.buf := by rfl
@[simp] theorem State.n_respond (r : RspWord) : (s.respond r).n = s.n := by rfl
@[simp] theorem State.len_respond (r : RspWord) : (s.respond r).len = s.len := by rfl
@[simp] theorem State.ph_respond (r : RspWord) : (s.respond r).ph = s.ph := by rfl
@[simp] theorem State.err_respond (r : RspWord) : (s.respond r).err = s.err := by rfl
@[simp] theorem State.ovf_respond (r : RspWord) : (s.respond r).ovf = s.ovf := by rfl
@[simp] theorem State.errcode_respond (r : RspWord) : (s.respond r).errcode = s.errcode := by rfl
@[simp] theorem State.slot_respond (r : RspWord) : (s.respond r).slot = s.slot := by rfl
@[simp] theorem State.sv_respond (r : RspWord) : (s.respond r).sv = s.sv := by rfl
@[simp] theorem State.comp_respond (r : RspWord) : (s.respond r).comp = s.comp := by rfl
@[simp] theorem State.cv_respond (r : RspWord) : (s.respond r).cv = s.cv := by rfl
@[simp] theorem State.host_respond (r : RspWord) : (s.respond r).host = s.host := by rfl
@[simp] theorem State.responses_respond (r : RspWord) : (s.respond r).responses = s.responses ++ [r] := by rfl
@[simp] theorem State.draws_respond (r : RspWord) : (s.respond r).draws = s.draws := by rfl

/-! ### noteError -/

@[simp] theorem State.h_noteError (code : BitVec 8) : (s.noteError code).h = s.h := by rfl
@[simp] theorem State.v_noteError (code : BitVec 8) : (s.noteError code).v = s.v := by rfl
@[simp] theorem State.w_noteError (code : BitVec 8) : (s.noteError code).w = s.w := by rfl
@[simp] theorem State.t_noteError (code : BitVec 8) : (s.noteError code).t = s.t := by rfl
@[simp] theorem State.buf_noteError (code : BitVec 8) : (s.noteError code).buf = s.buf := by rfl
@[simp] theorem State.n_noteError (code : BitVec 8) : (s.noteError code).n = s.n := by rfl
@[simp] theorem State.len_noteError (code : BitVec 8) : (s.noteError code).len = s.len := by rfl
@[simp] theorem State.ph_noteError (code : BitVec 8) : (s.noteError code).ph = s.ph := by rfl
@[simp] theorem State.err_noteError (code : BitVec 8) : (s.noteError code).err = true := by rfl
@[simp] theorem State.ovf_noteError (code : BitVec 8) : (s.noteError code).ovf = s.ovf := by rfl
@[simp] theorem State.errcode_noteError (code : BitVec 8) : (s.noteError code).errcode = if s.err then s.errcode else code := by rfl
@[simp] theorem State.slot_noteError (code : BitVec 8) : (s.noteError code).slot = s.slot := by rfl
@[simp] theorem State.sv_noteError (code : BitVec 8) : (s.noteError code).sv = s.sv := by rfl
@[simp] theorem State.comp_noteError (code : BitVec 8) : (s.noteError code).comp = s.comp := by rfl
@[simp] theorem State.cv_noteError (code : BitVec 8) : (s.noteError code).cv = s.cv := by rfl
@[simp] theorem State.host_noteError (code : BitVec 8) : (s.noteError code).host = s.host := by rfl
@[simp] theorem State.responses_noteError (code : BitVec 8) : (s.noteError code).responses = s.responses := by rfl
@[simp] theorem State.draws_noteError (code : BitVec 8) : (s.noteError code).draws = s.draws := by rfl

/-! ### refuse -/

@[simp] theorem State.h_refuse (code : BitVec 8) : (s.refuse code).h = s.h := by rfl
@[simp] theorem State.v_refuse (code : BitVec 8) : (s.refuse code).v = s.v := by rfl
@[simp] theorem State.w_refuse (code : BitVec 8) : (s.refuse code).w = s.w := by rfl
@[simp] theorem State.t_refuse (code : BitVec 8) : (s.refuse code).t = s.t := by rfl
@[simp] theorem State.buf_refuse (code : BitVec 8) : (s.refuse code).buf = s.buf := by rfl
@[simp] theorem State.n_refuse (code : BitVec 8) : (s.refuse code).n = s.n := by rfl
@[simp] theorem State.len_refuse (code : BitVec 8) : (s.refuse code).len = s.len := by rfl
@[simp] theorem State.ph_refuse (code : BitVec 8) : (s.refuse code).ph = s.ph := by rfl
@[simp] theorem State.err_refuse (code : BitVec 8) : (s.refuse code).err = true := by rfl
@[simp] theorem State.ovf_refuse (code : BitVec 8) : (s.refuse code).ovf = s.ovf := by rfl
@[simp] theorem State.errcode_refuse (code : BitVec 8) : (s.refuse code).errcode = if s.err then s.errcode else code := by rfl
@[simp] theorem State.slot_refuse (code : BitVec 8) : (s.refuse code).slot = s.slot := by rfl
@[simp] theorem State.sv_refuse (code : BitVec 8) : (s.refuse code).sv = s.sv := by rfl
@[simp] theorem State.comp_refuse (code : BitVec 8) : (s.refuse code).comp = s.comp := by rfl
@[simp] theorem State.cv_refuse (code : BitVec 8) : (s.refuse code).cv = s.cv := by rfl
@[simp] theorem State.host_refuse (code : BitVec 8) : (s.refuse code).host = s.host := by rfl
@[simp] theorem State.responses_refuse (code : BitVec 8) : (s.refuse code).responses = s.responses ++ [0x8000#16 + code.setWidth 16] := by rfl
@[simp] theorem State.draws_refuse (code : BitVec 8) : (s.refuse code).draws = s.draws := by rfl

/-! ### refuseReserved -/

@[simp] theorem State.h_refuseReserved : (s.refuseReserved).h = s.h := by rfl
@[simp] theorem State.v_refuseReserved : (s.refuseReserved).v = s.v := by rfl
@[simp] theorem State.w_refuseReserved : (s.refuseReserved).w = s.w := by rfl
@[simp] theorem State.t_refuseReserved : (s.refuseReserved).t = s.t := by rfl
@[simp] theorem State.buf_refuseReserved : (s.refuseReserved).buf = s.buf := by rfl
@[simp] theorem State.n_refuseReserved : (s.refuseReserved).n = s.n := by rfl
@[simp] theorem State.len_refuseReserved : (s.refuseReserved).len = s.len := by rfl
@[simp] theorem State.ph_refuseReserved : (s.refuseReserved).ph = s.ph := by rfl
@[simp] theorem State.err_refuseReserved : (s.refuseReserved).err = true := by rfl
@[simp] theorem State.ovf_refuseReserved : (s.refuseReserved).ovf = s.ovf := by rfl
@[simp] theorem State.errcode_refuseReserved : (s.refuseReserved).errcode = if s.err then s.errcode else 0x01 := by rfl
@[simp] theorem State.slot_refuseReserved : (s.refuseReserved).slot = s.slot := by rfl
@[simp] theorem State.sv_refuseReserved : (s.refuseReserved).sv = s.sv := by rfl
@[simp] theorem State.comp_refuseReserved : (s.refuseReserved).comp = s.comp := by rfl
@[simp] theorem State.cv_refuseReserved : (s.refuseReserved).cv = s.cv := by rfl
@[simp] theorem State.host_refuseReserved : (s.refuseReserved).host = s.host := by rfl
@[simp] theorem State.responses_refuseReserved : (s.refuseReserved).responses = s.responses ++ [0x8001] := by rfl
@[simp] theorem State.draws_refuseReserved : (s.refuseReserved).draws = s.draws := by rfl

/-! ### resetControl -/

@[simp] theorem State.h_resetControl : (s.resetControl).h = s.h := by rfl
@[simp] theorem State.v_resetControl : (s.resetControl).v = s.v := by rfl
@[simp] theorem State.w_resetControl : (s.resetControl).w = s.w := by rfl
@[simp] theorem State.t_resetControl : (s.resetControl).t = s.t := by rfl
@[simp] theorem State.buf_resetControl : (s.resetControl).buf = s.buf := by rfl
@[simp] theorem State.n_resetControl : (s.resetControl).n = 0 := by rfl
@[simp] theorem State.len_resetControl : (s.resetControl).len = s.len := by rfl
@[simp] theorem State.ph_resetControl : (s.resetControl).ph = .idle := by rfl
@[simp] theorem State.err_resetControl : (s.resetControl).err = false := by rfl
@[simp] theorem State.ovf_resetControl : (s.resetControl).ovf = false := by rfl
@[simp] theorem State.errcode_resetControl : (s.resetControl).errcode = 0x00 := by rfl
@[simp] theorem State.slot_resetControl : (s.resetControl).slot = s.slot := by rfl
@[simp] theorem State.sv_resetControl : (s.resetControl).sv = 0b0000 := by rfl
@[simp] theorem State.comp_resetControl : (s.resetControl).comp = s.comp := by rfl
@[simp] theorem State.cv_resetControl : (s.resetControl).cv = 0b00 := by rfl
@[simp] theorem State.host_resetControl : (s.resetControl).host = s.host := by rfl
@[simp] theorem State.responses_resetControl : (s.resetControl).responses = s.responses := by rfl
@[simp] theorem State.draws_resetControl : (s.resetControl).draws = s.draws := by rfl

/-! ### dropTransients -/

@[simp] theorem State.h_dropTransients : (s.dropTransients).h = s.h := by rfl
@[simp] theorem State.v_dropTransients : (s.dropTransients).v = freeWords8 s.draws 0 := by rfl
@[simp] theorem State.w_dropTransients : (s.dropTransients).w = Vector.ofFn (fun i => Config.freeWord s.draws (8 + i.val)) := by rfl
@[simp] theorem State.t_dropTransients : (s.dropTransients).t = Config.freeIndex s.draws := by rfl
@[simp] theorem State.buf_dropTransients : (s.dropTransients).buf = s.buf := by rfl
@[simp] theorem State.n_dropTransients : (s.dropTransients).n = s.n := by rfl
@[simp] theorem State.len_dropTransients : (s.dropTransients).len = s.len := by rfl
@[simp] theorem State.ph_dropTransients : (s.dropTransients).ph = s.ph := by rfl
@[simp] theorem State.err_dropTransients : (s.dropTransients).err = s.err := by rfl
@[simp] theorem State.ovf_dropTransients : (s.dropTransients).ovf = s.ovf := by rfl
@[simp] theorem State.errcode_dropTransients : (s.dropTransients).errcode = s.errcode := by rfl
@[simp] theorem State.slot_dropTransients : (s.dropTransients).slot = s.slot := by rfl
@[simp] theorem State.sv_dropTransients : (s.dropTransients).sv = s.sv := by rfl
@[simp] theorem State.comp_dropTransients : (s.dropTransients).comp = s.comp := by rfl
@[simp] theorem State.cv_dropTransients : (s.dropTransients).cv = s.cv := by rfl
@[simp] theorem State.host_dropTransients : (s.dropTransients).host = s.host := by rfl
@[simp] theorem State.responses_dropTransients : (s.dropTransients).responses = s.responses := by rfl
@[simp] theorem State.draws_dropTransients : (s.dropTransients).draws = s.draws + 1 := by rfl

/-! ### resetEvent -/

@[simp] theorem State.h_resetEvent : (s.resetEvent).h = freeWords8 s.draws 88 := by rfl
@[simp] theorem State.v_resetEvent : (s.resetEvent).v = freeWords8 s.draws 0 := by rfl
@[simp] theorem State.w_resetEvent : (s.resetEvent).w = Vector.ofFn (fun i => Config.freeWord s.draws (8 + i.val)) := by rfl
@[simp] theorem State.t_resetEvent : (s.resetEvent).t = Config.freeIndex s.draws := by rfl
@[simp] theorem State.buf_resetEvent : (s.resetEvent).buf = Memory.ofBytes (Config.freeByte s.draws) 0 128 := by rfl
@[simp] theorem State.n_resetEvent : (s.resetEvent).n = 0 := by rfl
@[simp] theorem State.len_resetEvent : (s.resetEvent).len = Config.freeLen s.draws := by rfl
@[simp] theorem State.ph_resetEvent : (s.resetEvent).ph = .idle := by rfl
@[simp] theorem State.err_resetEvent : (s.resetEvent).err = false := by rfl
@[simp] theorem State.ovf_resetEvent : (s.resetEvent).ovf = false := by rfl
@[simp] theorem State.errcode_resetEvent : (s.resetEvent).errcode = 0x00 := by rfl
@[simp] theorem State.slot_resetEvent : (s.resetEvent).slot = Vector.ofFn (fun i => freeWords8 s.draws (96 + 8 * i.val)) := by rfl
@[simp] theorem State.sv_resetEvent : (s.resetEvent).sv = 0b0000 := by rfl
@[simp] theorem State.comp_resetEvent : (s.resetEvent).comp = Vector.ofFn (fun i => freeWords8 s.draws (128 + 8 * i.val)) := by rfl
@[simp] theorem State.cv_resetEvent : (s.resetEvent).cv = 0b00 := by rfl
@[simp] theorem State.host_resetEvent : (s.resetEvent).host = s.host := by rfl
@[simp] theorem State.responses_resetEvent : (s.resetEvent).responses = s.responses := by rfl
@[simp] theorem State.draws_resetEvent : (s.resetEvent).draws = s.draws + 1 := by rfl

/-! ### takeEvent -/

@[simp] theorem State.h_takeEvent : (s.takeEvent).h = s.h := by rfl
@[simp] theorem State.v_takeEvent : (s.takeEvent).v = s.v := by rfl
@[simp] theorem State.w_takeEvent : (s.takeEvent).w = s.w := by rfl
@[simp] theorem State.t_takeEvent : (s.takeEvent).t = s.t := by rfl
@[simp] theorem State.buf_takeEvent : (s.takeEvent).buf = s.buf := by rfl
@[simp] theorem State.n_takeEvent : (s.takeEvent).n = s.n := by rfl
@[simp] theorem State.len_takeEvent : (s.takeEvent).len = s.len := by rfl
@[simp] theorem State.ph_takeEvent : (s.takeEvent).ph = s.ph := by rfl
@[simp] theorem State.err_takeEvent : (s.takeEvent).err = s.err := by rfl
@[simp] theorem State.ovf_takeEvent : (s.takeEvent).ovf = s.ovf := by rfl
@[simp] theorem State.errcode_takeEvent : (s.takeEvent).errcode = s.errcode := by rfl
@[simp] theorem State.slot_takeEvent : (s.takeEvent).slot = s.slot := by rfl
@[simp] theorem State.sv_takeEvent : (s.takeEvent).sv = s.sv := by rfl
@[simp] theorem State.comp_takeEvent : (s.takeEvent).comp = s.comp := by rfl
@[simp] theorem State.cv_takeEvent : (s.takeEvent).cv = s.cv := by rfl
@[simp] theorem State.host_takeEvent : (s.takeEvent).host = s.host.tail := by rfl
@[simp] theorem State.responses_takeEvent : (s.takeEvent).responses = s.responses := by rfl
@[simp] theorem State.draws_takeEvent : (s.takeEvent).draws = s.draws := by rfl

/-! ### offer -/

@[simp] theorem State.h_offer (x : CmdWord) : (s.offer x).h = s.h := by rfl
@[simp] theorem State.v_offer (x : CmdWord) : (s.offer x).v = s.v := by rfl
@[simp] theorem State.w_offer (x : CmdWord) : (s.offer x).w = s.w := by rfl
@[simp] theorem State.t_offer (x : CmdWord) : (s.offer x).t = s.t := by rfl
@[simp] theorem State.buf_offer (x : CmdWord) : (s.offer x).buf = s.buf := by rfl
@[simp] theorem State.n_offer (x : CmdWord) : (s.offer x).n = s.n := by rfl
@[simp] theorem State.len_offer (x : CmdWord) : (s.offer x).len = s.len := by rfl
@[simp] theorem State.ph_offer (x : CmdWord) : (s.offer x).ph = s.ph := by rfl
@[simp] theorem State.err_offer (x : CmdWord) : (s.offer x).err = s.err := by rfl
@[simp] theorem State.ovf_offer (x : CmdWord) : (s.offer x).ovf = s.ovf := by rfl
@[simp] theorem State.errcode_offer (x : CmdWord) : (s.offer x).errcode = s.errcode := by rfl
@[simp] theorem State.slot_offer (x : CmdWord) : (s.offer x).slot = s.slot := by rfl
@[simp] theorem State.sv_offer (x : CmdWord) : (s.offer x).sv = s.sv := by rfl
@[simp] theorem State.comp_offer (x : CmdWord) : (s.offer x).comp = s.comp := by rfl
@[simp] theorem State.cv_offer (x : CmdWord) : (s.offer x).cv = s.cv := by rfl
@[simp] theorem State.host_offer (x : CmdWord) : (s.offer x).host = .cmd x :: s.host := by rfl
@[simp] theorem State.responses_offer (x : CmdWord) : (s.offer x).responses = s.responses := by rfl
@[simp] theorem State.draws_offer (x : CmdWord) : (s.offer x).draws = s.draws := by rfl

/-! ### latch -/

@[simp] theorem State.h_latch (c : BitVec 2) : (s.latch c).h = s.h := by rfl
@[simp] theorem State.v_latch (c : BitVec 2) : (s.latch c).v = s.v := by rfl
@[simp] theorem State.w_latch (c : BitVec 2) : (s.latch c).w = s.w := by rfl
@[simp] theorem State.t_latch (c : BitVec 2) : (s.latch c).t = s.t := by rfl
@[simp] theorem State.buf_latch (c : BitVec 2) : (s.latch c).buf = s.buf := by rfl
@[simp] theorem State.n_latch (c : BitVec 2) : (s.latch c).n = s.n := by rfl
@[simp] theorem State.len_latch (c : BitVec 2) : (s.latch c).len = s.len := by rfl
@[simp] theorem State.ph_latch (c : BitVec 2) : (s.latch c).ph = s.ph := by rfl
@[simp] theorem State.err_latch (c : BitVec 2) : (s.latch c).err = s.err := by rfl
@[simp] theorem State.ovf_latch (c : BitVec 2) : (s.latch c).ovf = s.ovf := by rfl
@[simp] theorem State.errcode_latch (c : BitVec 2) : (s.latch c).errcode = s.errcode := by rfl
@[simp] theorem State.slot_latch (c : BitVec 2) : (s.latch c).slot = s.slot.set c.toNat s.h c.isLt := by rfl
@[simp] theorem State.sv_latch (c : BitVec 2) : (s.latch c).sv = s.sv ||| (1 <<< c.toNat) := by rfl
@[simp] theorem State.comp_latch (c : BitVec 2) : (s.latch c).comp = s.comp := by rfl
@[simp] theorem State.cv_latch (c : BitVec 2) : (s.latch c).cv = s.cv := by rfl
@[simp] theorem State.host_latch (c : BitVec 2) : (s.latch c).host = s.host := by rfl
@[simp] theorem State.responses_latch (c : BitVec 2) : (s.latch c).responses = s.responses := by rfl
@[simp] theorem State.draws_latch (c : BitVec 2) : (s.latch c).draws = s.draws := by rfl

/-! ### storeComp -/

@[simp] theorem State.h_storeComp (k : BitVec 1) : (s.storeComp k).h = s.h := by rfl
@[simp] theorem State.v_storeComp (k : BitVec 1) : (s.storeComp k).v = s.v := by rfl
@[simp] theorem State.w_storeComp (k : BitVec 1) : (s.storeComp k).w = s.w := by rfl
@[simp] theorem State.t_storeComp (k : BitVec 1) : (s.storeComp k).t = s.t := by rfl
@[simp] theorem State.buf_storeComp (k : BitVec 1) : (s.storeComp k).buf = s.buf := by rfl
@[simp] theorem State.n_storeComp (k : BitVec 1) : (s.storeComp k).n = s.n := by rfl
@[simp] theorem State.len_storeComp (k : BitVec 1) : (s.storeComp k).len = s.len := by rfl
@[simp] theorem State.ph_storeComp (k : BitVec 1) : (s.storeComp k).ph = s.ph := by rfl
@[simp] theorem State.err_storeComp (k : BitVec 1) : (s.storeComp k).err = s.err := by rfl
@[simp] theorem State.ovf_storeComp (k : BitVec 1) : (s.storeComp k).ovf = s.ovf := by rfl
@[simp] theorem State.errcode_storeComp (k : BitVec 1) : (s.storeComp k).errcode = s.errcode := by rfl
@[simp] theorem State.slot_storeComp (k : BitVec 1) : (s.storeComp k).slot = s.slot := by rfl
@[simp] theorem State.sv_storeComp (k : BitVec 1) : (s.storeComp k).sv = s.sv := by rfl
@[simp] theorem State.comp_storeComp (k : BitVec 1) : (s.storeComp k).comp = s.comp.set k.toNat s.h k.isLt := by rfl
@[simp] theorem State.cv_storeComp (k : BitVec 1) : (s.storeComp k).cv = s.cv ||| (1 <<< k.toNat) := by rfl
@[simp] theorem State.host_storeComp (k : BitVec 1) : (s.storeComp k).host = s.host := by rfl
@[simp] theorem State.responses_storeComp (k : BitVec 1) : (s.storeComp k).responses = s.responses := by rfl
@[simp] theorem State.draws_storeComp (k : BitVec 1) : (s.storeComp k).draws = s.draws := by rfl

/-! ### clearSlots -/

@[simp] theorem State.h_clearSlots : (s.clearSlots).h = s.h := by rfl
@[simp] theorem State.v_clearSlots : (s.clearSlots).v = s.v := by rfl
@[simp] theorem State.w_clearSlots : (s.clearSlots).w = s.w := by rfl
@[simp] theorem State.t_clearSlots : (s.clearSlots).t = s.t := by rfl
@[simp] theorem State.buf_clearSlots : (s.clearSlots).buf = s.buf := by rfl
@[simp] theorem State.n_clearSlots : (s.clearSlots).n = s.n := by rfl
@[simp] theorem State.len_clearSlots : (s.clearSlots).len = s.len := by rfl
@[simp] theorem State.ph_clearSlots : (s.clearSlots).ph = s.ph := by rfl
@[simp] theorem State.err_clearSlots : (s.clearSlots).err = s.err := by rfl
@[simp] theorem State.ovf_clearSlots : (s.clearSlots).ovf = s.ovf := by rfl
@[simp] theorem State.errcode_clearSlots : (s.clearSlots).errcode = s.errcode := by rfl
@[simp] theorem State.slot_clearSlots : (s.clearSlots).slot = s.slot := by rfl
@[simp] theorem State.sv_clearSlots : (s.clearSlots).sv = 0b0000 := by rfl
@[simp] theorem State.comp_clearSlots : (s.clearSlots).comp = s.comp := by rfl
@[simp] theorem State.cv_clearSlots : (s.clearSlots).cv = s.cv := by rfl
@[simp] theorem State.host_clearSlots : (s.clearSlots).host = s.host := by rfl
@[simp] theorem State.responses_clearSlots : (s.clearSlots).responses = s.responses := by rfl
@[simp] theorem State.draws_clearSlots : (s.clearSlots).draws = s.draws := by rfl

/-! ### addByteToLen -/

@[simp] theorem State.h_addByteToLen : (s.addByteToLen).h = s.h := by rfl
@[simp] theorem State.v_addByteToLen : (s.addByteToLen).v = s.v := by rfl
@[simp] theorem State.w_addByteToLen : (s.addByteToLen).w = s.w := by rfl
@[simp] theorem State.t_addByteToLen : (s.addByteToLen).t = s.t := by rfl
@[simp] theorem State.buf_addByteToLen : (s.addByteToLen).buf = s.buf := by rfl
@[simp] theorem State.n_addByteToLen : (s.addByteToLen).n = s.n := by rfl
@[simp] theorem State.len_addByteToLen : (s.addByteToLen).len = s.len + 8 := by rfl
@[simp] theorem State.ph_addByteToLen : (s.addByteToLen).ph = s.ph := by rfl
@[simp] theorem State.err_addByteToLen : (s.addByteToLen).err = s.err := by rfl
@[simp] theorem State.ovf_addByteToLen : (s.addByteToLen).ovf = s.ovf := by rfl
@[simp] theorem State.errcode_addByteToLen : (s.addByteToLen).errcode = s.errcode := by rfl
@[simp] theorem State.slot_addByteToLen : (s.addByteToLen).slot = s.slot := by rfl
@[simp] theorem State.sv_addByteToLen : (s.addByteToLen).sv = s.sv := by rfl
@[simp] theorem State.comp_addByteToLen : (s.addByteToLen).comp = s.comp := by rfl
@[simp] theorem State.cv_addByteToLen : (s.addByteToLen).cv = s.cv := by rfl
@[simp] theorem State.host_addByteToLen : (s.addByteToLen).host = s.host := by rfl
@[simp] theorem State.responses_addByteToLen : (s.addByteToLen).responses = s.responses := by rfl
@[simp] theorem State.draws_addByteToLen : (s.addByteToLen).draws = s.draws := by rfl

/-! ### noteLenOverflow -/

@[simp] theorem State.h_noteLenOverflow : (s.noteLenOverflow).h = s.h := by rfl
@[simp] theorem State.v_noteLenOverflow : (s.noteLenOverflow).v = s.v := by rfl
@[simp] theorem State.w_noteLenOverflow : (s.noteLenOverflow).w = s.w := by rfl
@[simp] theorem State.t_noteLenOverflow : (s.noteLenOverflow).t = s.t := by rfl
@[simp] theorem State.buf_noteLenOverflow : (s.noteLenOverflow).buf = s.buf := by rfl
@[simp] theorem State.n_noteLenOverflow : (s.noteLenOverflow).n = s.n := by rfl
@[simp] theorem State.len_noteLenOverflow : (s.noteLenOverflow).len = s.len := by rfl
@[simp] theorem State.ph_noteLenOverflow : (s.noteLenOverflow).ph = s.ph := by rfl
@[simp] theorem State.err_noteLenOverflow : (s.noteLenOverflow).err = s.err := by rfl
@[simp] theorem State.ovf_noteLenOverflow : (s.noteLenOverflow).ovf = (s.ovf || lenCarries s.len) := by rfl
@[simp] theorem State.errcode_noteLenOverflow : (s.noteLenOverflow).errcode = s.errcode := by rfl
@[simp] theorem State.slot_noteLenOverflow : (s.noteLenOverflow).slot = s.slot := by rfl
@[simp] theorem State.sv_noteLenOverflow : (s.noteLenOverflow).sv = s.sv := by rfl
@[simp] theorem State.comp_noteLenOverflow : (s.noteLenOverflow).comp = s.comp := by rfl
@[simp] theorem State.cv_noteLenOverflow : (s.noteLenOverflow).cv = s.cv := by rfl
@[simp] theorem State.host_noteLenOverflow : (s.noteLenOverflow).host = s.host := by rfl
@[simp] theorem State.responses_noteLenOverflow : (s.noteLenOverflow).responses = s.responses := by rfl
@[simp] theorem State.draws_noteLenOverflow : (s.noteLenOverflow).draws = s.draws := by rfl

/-! ### openMessage -/

@[simp] theorem State.h_openMessage : (s.openMessage).h = config.pIV := by rfl
@[simp] theorem State.v_openMessage : (s.openMessage).v = s.v := by rfl
@[simp] theorem State.w_openMessage : (s.openMessage).w = s.w := by rfl
@[simp] theorem State.t_openMessage : (s.openMessage).t = s.t := by rfl
@[simp] theorem State.buf_openMessage : (s.openMessage).buf = s.buf := by rfl
@[simp] theorem State.n_openMessage : (s.openMessage).n = 0 := by rfl
@[simp] theorem State.len_openMessage : (s.openMessage).len = 0 := by rfl
@[simp] theorem State.ph_openMessage : (s.openMessage).ph = .absorb := by rfl
@[simp] theorem State.err_openMessage : (s.openMessage).err = s.err := by rfl
@[simp] theorem State.ovf_openMessage : (s.openMessage).ovf = false := by rfl
@[simp] theorem State.errcode_openMessage : (s.openMessage).errcode = s.errcode := by rfl
@[simp] theorem State.slot_openMessage : (s.openMessage).slot = s.slot := by rfl
@[simp] theorem State.sv_openMessage : (s.openMessage).sv = s.sv := by rfl
@[simp] theorem State.comp_openMessage : (s.openMessage).comp = s.comp := by rfl
@[simp] theorem State.cv_openMessage : (s.openMessage).cv = s.cv := by rfl
@[simp] theorem State.host_openMessage : (s.openMessage).host = s.host := by rfl
@[simp] theorem State.responses_openMessage : (s.openMessage).responses = s.responses := by rfl
@[simp] theorem State.draws_openMessage : (s.openMessage).draws = s.draws := by rfl

/-! ### compressBlock -/

@[simp] theorem State.h_compressBlock : (s.compressBlock).h = compress s.h s.block := by rw [State.compressBlock, State.h_setHash]
@[simp] theorem State.v_compressBlock : (s.compressBlock).v = freeWords8 s.draws 0 := by rw [State.compressBlock, State.v_setHash, State.v_dropTransients]
@[simp] theorem State.w_compressBlock : (s.compressBlock).w = Vector.ofFn (fun i => Config.freeWord s.draws (8 + i.val)) := by rw [State.compressBlock, State.w_setHash, State.w_dropTransients]
@[simp] theorem State.t_compressBlock : (s.compressBlock).t = Config.freeIndex s.draws := by rw [State.compressBlock, State.t_setHash, State.t_dropTransients]
@[simp] theorem State.buf_compressBlock : (s.compressBlock).buf = s.buf := by rw [State.compressBlock, State.buf_setHash, State.buf_dropTransients]
@[simp] theorem State.n_compressBlock : (s.compressBlock).n = s.n := by rw [State.compressBlock, State.n_setHash, State.n_dropTransients]
@[simp] theorem State.len_compressBlock : (s.compressBlock).len = s.len := by rw [State.compressBlock, State.len_setHash, State.len_dropTransients]
@[simp] theorem State.ph_compressBlock : (s.compressBlock).ph = s.ph := by rw [State.compressBlock, State.ph_setHash, State.ph_dropTransients]
@[simp] theorem State.err_compressBlock : (s.compressBlock).err = s.err := by rw [State.compressBlock, State.err_setHash, State.err_dropTransients]
@[simp] theorem State.ovf_compressBlock : (s.compressBlock).ovf = s.ovf := by rw [State.compressBlock, State.ovf_setHash, State.ovf_dropTransients]
@[simp] theorem State.errcode_compressBlock : (s.compressBlock).errcode = s.errcode := by rw [State.compressBlock, State.errcode_setHash, State.errcode_dropTransients]
@[simp] theorem State.slot_compressBlock : (s.compressBlock).slot = s.slot := by rw [State.compressBlock, State.slot_setHash, State.slot_dropTransients]
@[simp] theorem State.sv_compressBlock : (s.compressBlock).sv = s.sv := by rw [State.compressBlock, State.sv_setHash, State.sv_dropTransients]
@[simp] theorem State.comp_compressBlock : (s.compressBlock).comp = s.comp := by rw [State.compressBlock, State.comp_setHash, State.comp_dropTransients]
@[simp] theorem State.cv_compressBlock : (s.compressBlock).cv = s.cv := by rw [State.compressBlock, State.cv_setHash, State.cv_dropTransients]
@[simp] theorem State.host_compressBlock : (s.compressBlock).host = s.host := by rw [State.compressBlock, State.host_setHash, State.host_dropTransients]
@[simp] theorem State.responses_compressBlock : (s.compressBlock).responses = s.responses := by rw [State.compressBlock, State.responses_setHash, State.responses_dropTransients]
@[simp] theorem State.draws_compressBlock : (s.compressBlock).draws = s.draws + 1 := by rw [State.compressBlock, State.draws_setHash, State.draws_dropTransients]

end Sys2Proof.Machine
end

