-- ==== Sys2Proof/Laws/Absorb.lean ====
section
/-! SUPPORT. Laws/Absorb.lean: what the absorb step, the padding loop and the closing of a message can do. The bytes of the
open block and the hash state move as one pure function of the byte stream (`stream`), so that a claim about many
absorbed bytes is a claim about a list. -/

namespace Sys2Proof.Machine

/-! ### What absorb leaves alone -/

@[simp] theorem State.len_absorb (s : State) (x : Byte) : (s.absorb x).len = s.len := by
  unfold State.absorb; split <;> simp
@[simp] theorem State.ph_absorb (s : State) (x : Byte) : (s.absorb x).ph = s.ph := by
  unfold State.absorb; split <;> simp
@[simp] theorem State.err_absorb (s : State) (x : Byte) : (s.absorb x).err = s.err := by
  unfold State.absorb; split <;> simp
@[simp] theorem State.ovf_absorb (s : State) (x : Byte) : (s.absorb x).ovf = s.ovf := by
  unfold State.absorb; split <;> simp
@[simp] theorem State.errcode_absorb (s : State) (x : Byte) : (s.absorb x).errcode = s.errcode := by
  unfold State.absorb; split <;> simp
@[simp] theorem State.slot_absorb (s : State) (x : Byte) : (s.absorb x).slot = s.slot := by
  unfold State.absorb; split <;> simp
@[simp] theorem State.sv_absorb (s : State) (x : Byte) : (s.absorb x).sv = s.sv := by
  unfold State.absorb; split <;> simp
@[simp] theorem State.comp_absorb (s : State) (x : Byte) : (s.absorb x).comp = s.comp := by
  unfold State.absorb; split <;> simp
@[simp] theorem State.cv_absorb (s : State) (x : Byte) : (s.absorb x).cv = s.cv := by
  unfold State.absorb; split <;> simp
@[simp] theorem State.host_absorb (s : State) (x : Byte) : (s.absorb x).host = s.host := by
  unfold State.absorb; split <;> simp
@[simp] theorem State.responses_absorb (s : State) (x : Byte) : (s.absorb x).responses = s.responses := by
  unfold State.absorb; split <;> simp

@[simp] theorem State.absorbAll_nil (s : State) : s.absorbAll [] = s := by rfl

@[simp] theorem State.absorbAll_cons (s : State) (x : Byte) (bs : List Byte) :
    s.absorbAll (x :: bs) = (s.absorb x).absorbAll bs := by rfl

theorem State.absorbAll_append (s : State) (bs cs : List Byte) :
    s.absorbAll (bs ++ cs) = (s.absorbAll bs).absorbAll cs := List.foldl_append

/-- Any reading of a state that absorb keeps is kept by a whole list of bytes. -/
theorem State.absorbAll_keeps {α : Type} (f : State → α) (hf : ∀ s x, f (s.absorb x) = f s) (s : State)
    (bs : List Byte) : f (s.absorbAll bs) = f s := by
  induction bs generalizing s with
  | nil => rfl
  | cons x bs ih => rw [State.absorbAll_cons, ih, hf]

@[simp] theorem State.len_absorbAll (s : State) (bs : List Byte) : (s.absorbAll bs).len = s.len :=
  State.absorbAll_keeps State.len State.len_absorb s bs
@[simp] theorem State.ph_absorbAll (s : State) (bs : List Byte) : (s.absorbAll bs).ph = s.ph :=
  State.absorbAll_keeps State.ph State.ph_absorb s bs
@[simp] theorem State.err_absorbAll (s : State) (bs : List Byte) : (s.absorbAll bs).err = s.err :=
  State.absorbAll_keeps State.err State.err_absorb s bs
@[simp] theorem State.ovf_absorbAll (s : State) (bs : List Byte) : (s.absorbAll bs).ovf = s.ovf :=
  State.absorbAll_keeps State.ovf State.ovf_absorb s bs
@[simp] theorem State.errcode_absorbAll (s : State) (bs : List Byte) : (s.absorbAll bs).errcode = s.errcode :=
  State.absorbAll_keeps State.errcode State.errcode_absorb s bs
@[simp] theorem State.slot_absorbAll (s : State) (bs : List Byte) : (s.absorbAll bs).slot = s.slot :=
  State.absorbAll_keeps State.slot State.slot_absorb s bs
@[simp] theorem State.sv_absorbAll (s : State) (bs : List Byte) : (s.absorbAll bs).sv = s.sv :=
  State.absorbAll_keeps State.sv State.sv_absorb s bs
@[simp] theorem State.comp_absorbAll (s : State) (bs : List Byte) : (s.absorbAll bs).comp = s.comp :=
  State.absorbAll_keeps State.comp State.comp_absorb s bs
@[simp] theorem State.cv_absorbAll (s : State) (bs : List Byte) : (s.absorbAll bs).cv = s.cv :=
  State.absorbAll_keeps State.cv State.cv_absorb s bs
@[simp] theorem State.host_absorbAll (s : State) (bs : List Byte) : (s.absorbAll bs).host = s.host :=
  State.absorbAll_keeps State.host State.host_absorb s bs
@[simp] theorem State.responses_absorbAll (s : State) (bs : List Byte) : (s.absorbAll bs).responses = s.responses :=
  State.absorbAll_keeps State.responses State.responses_absorb s bs

/-! ### The byte stream -/

/-- The bytes of the open block: `BUF[0]` to `BUF[N-1]`. -/
def State.pending (s : State) : List Byte := (List.range s.n.toNat).map s.buf.read

@[simp] theorem State.length_pending (s : State) : s.pending.length = s.n.toNat := by simp [State.pending]

theorem State.getElem?_pending (s : State) {k : Nat} (hk : k < s.n.toNat) : s.pending[k]? = some (s.buf.read k) := by
  simp [State.pending, hk]

/-- One byte on the pair of hash state and open block. -/
def streamByte (c : Words8 × List Byte) (x : Byte) : Words8 × List Byte :=
  if c.2.length = 127 then (compress c.1 (c.2 ++ [x]), []) else (c.1, c.2 ++ [x])

/-- The bytes one after another. -/
def stream (c : Words8 × List Byte) (bs : List Byte) : Words8 × List Byte := bs.foldl streamByte c

theorem State.wf_absorb {s : State} (h : s.buf.wf = true) (x : Byte) : (s.absorb x).buf.wf = true := by
  have hn := s.n.isLt
  unfold State.absorb
  split <;> simpa using Memory.wf_write h (by omega) x

theorem State.wf_absorbAll {s : State} (h : s.buf.wf = true) (bs : List Byte) : (s.absorbAll bs).buf.wf = true := by
  induction bs generalizing s with
  | nil => exact h
  | cons x bs ih => exact ih (State.wf_absorb h x)

/-- The byte goes to index `N`, every other byte is left alone. -/
theorem State.read_absorb {s : State} (h : s.buf.wf = true) (x : Byte) (a : Nat) :
    (s.absorb x).buf.read a = if a = s.n.toNat then x else s.buf.read a := by
  have hb : (s.absorb x).buf = s.buf.write s.n.toNat x := by unfold State.absorb; split <;> simp
  rw [hb]
  split
  · next ha => rw [ha]; exact Memory.read_write_eq h _ x
  · next ha => exact Memory.read_write_ne _ x ha

theorem State.n_absorb (s : State) (x : Byte) : (s.absorb x).n = s.n + 1 := by
  unfold State.absorb
  split
  · next h => rw [h]; rfl
  · rfl

theorem State.n_absorbAll (s : State) (bs : List Byte) : (s.absorbAll bs).n = s.n + BitVec.ofNat 7 bs.length := by
  induction bs generalizing s with
  | nil => simp
  | cons x bs ih =>
    rw [State.absorbAll_cons, ih, State.n_absorb, List.length_cons, Nat.add_comm bs.length 1, BitVec.ofNat_add,
      BitVec.add_assoc]
    rfl

theorem n_eq_127_iff (n : BitVec 7) : n = 127 ↔ n.toNat = 127 :=
  ⟨fun h => by rw [h]; rfl, fun h => BitVec.eq_of_toNat_eq h⟩

/-- The whole block once the byte at 127 is written. -/
theorem State.block_putByte {s : State} (h : s.buf.wf = true) (hn : s.n = 127) (x : Byte) :
    (s.putByte x).block = s.pending ++ [x] := by
  have h127 : s.n.toNat = 127 := (n_eq_127_iff s.n).1 hn
  unfold State.block State.pending
  rw [h127, show 128 = 127 + 1 from rfl, List.range_succ, List.map_append, List.map_singleton]
  congr 1
  · apply List.map_congr_left
    intro a ha
    have := List.mem_range.1 ha
    rw [State.buf_putByte, h127]
    exact Memory.read_write_ne _ x (by omega)
  · rw [State.buf_putByte, h127, Memory.read_write_eq h]

/-- The absorb step is `streamByte` on the hash state and the open block. -/
theorem State.stream_absorb {s : State} (h : s.buf.wf = true) (x : Byte) :
    ((s.absorb x).h, (s.absorb x).pending) = streamByte (s.h, s.pending) x := by
  unfold streamByte
  rw [State.length_pending]
  by_cases hn : s.n = 127
  · rw [if_pos ((n_eq_127_iff s.n).1 hn), State.absorb, if_pos hn]
    simp [State.pending, State.block_putByte h hn, -List.map_append]
  · have hn' : s.n.toNat ≠ 127 := fun e => hn ((n_eq_127_iff s.n).2 e)
    have hlt : s.n.toNat < 127 := by have := s.n.isLt; omega
    rw [if_neg hn']
    refine Prod.ext ?_ ?_
    · rw [State.absorb, if_neg hn]; rfl
    · have hk : (s.absorb x).n.toNat = s.n.toNat + 1 := by
        rw [State.n_absorb, BitVec.toNat_add]
        exact Nat.mod_eq_of_lt (by change s.n.toNat + 1 < 128; omega)
      simp only [State.pending, hk, List.range_succ, List.map_append, List.map_singleton]
      congr 1
      · apply List.map_congr_left
        intro a ha
        rw [State.read_absorb h, if_neg (by have := List.mem_range.1 ha; omega)]
      · rw [State.read_absorb h, if_pos rfl]

theorem State.stream_absorbAll {s : State} (h : s.buf.wf = true) (bs : List Byte) :
    ((s.absorbAll bs).h, (s.absorbAll bs).pending) = stream (s.h, s.pending) bs := by
  induction bs generalizing s with
  | nil => rfl
  | cons x bs ih => rw [State.absorbAll_cons, ih (State.wf_absorb h x), State.stream_absorb h]; rfl

/-- Bytes that do not fill the block join it. -/
theorem stream_stay (h : Words8) (p bs : List Byte) (hl : p.length + bs.length < 128) :
    stream (h, p) bs = (h, p ++ bs) := by
  induction bs generalizing p with
  | nil => simp [stream]
  | cons x bs ih =>
    rw [List.length_cons] at hl
    have hs : streamByte (h, p) x = (h, p ++ [x]) := by
      unfold streamByte; rw [if_neg (by simp only; omega)]
    have := ih (p ++ [x]) (by simp; omega)
    rw [show stream (h, p) (x :: bs) = stream (streamByte (h, p) x) bs from rfl, hs, this]
    simp

/-- Bytes that just fill the block compress it. -/
theorem stream_fill (h : Words8) (p bs : List Byte) (hp : p.length < 128) (hl : p.length + bs.length = 128) :
    stream (h, p) bs = (compress h (p ++ bs), []) := by
  obtain ⟨init, x, rfl⟩ : ∃ init x, bs = init ++ [x] := by
    refine ⟨bs.dropLast, bs.getLast (by rintro rfl; simp at hl; omega), (List.dropLast_append_getLast _).symm⟩
  rw [List.length_append, List.length_singleton] at hl
  have hc : stream (h, p) (init ++ [x]) = streamByte (stream (h, p) init) x := by simp [stream]
  rw [hc, stream_stay h p init (by omega)]
  unfold streamByte
  rw [if_pos (by simp; omega), List.append_assoc]

/-! ### Blocks of a byte sequence -/

theorem length_blocks (p : List Byte) : (blocks p).length = p.length / 128 := by simp [blocks]

/-- A first whole block comes off the front. -/
theorem blocks_append (b p : List Byte) (hb : b.length = 128) : blocks (b ++ p) = b :: blocks p := by
  unfold blocks
  have hl : (b ++ p).length / 128 = p.length / 128 + 1 := by rw [List.length_append, hb]; omega
  rw [hl, List.range_succ_eq_map, List.map_cons, List.map_map]
  congr 1
  · simp [← hb]
  · apply List.map_congr_left
    intro q _
    simp only [Function.comp_apply]
    rw [show 128 * Nat.succ q = b.length + 128 * q by rw [hb]; omega, List.drop_length_add_append]

theorem blocks_of_lt (p : List Byte) (h : p.length < 128) : blocks p = [] := by
  simp [blocks, Nat.div_eq_of_lt h]

/-- Absorbing any bytes: the whole blocks are compressed in order, the rest waits. -/
theorem stream_eq (h : Words8) (p bs : List Byte) (hp : p.length < 128) :
    stream (h, p) bs =
      ((blocks (p ++ bs)).foldl compress h, (p ++ bs).drop (128 * ((p ++ bs).length / 128))) := by
  induction hk : (p ++ bs).length / 128 generalizing h p bs with
  | zero =>
    have hl : p.length + bs.length < 128 := by rw [List.length_append] at hk; omega
    rw [stream_stay h p bs hl, blocks_of_lt _ (by simpa using hl)]
    simp
  | succ k ih =>
    have hl : 128 ≤ p.length + bs.length := by rw [List.length_append] at hk; omega
    obtain ⟨c, d, rfl, hc⟩ : ∃ c d, bs = c ++ d ∧ p.length + c.length = 128 :=
      ⟨bs.take (128 - p.length), bs.drop (128 - p.length), (List.take_append_drop _ _).symm,
        by rw [List.length_take]; omega⟩
    have hpc : (p ++ c).length = 128 := by rw [List.length_append]; exact hc
    have hs : stream (h, p) (c ++ d) = stream (stream (h, p) c) d := List.foldl_append
    have hk' : ([] ++ d).length / 128 = k := by
      rw [← List.append_assoc, List.length_append, hpc] at hk
      rw [List.nil_append]; omega
    rw [hs, stream_fill h p c hp hc, ih _ [] d (by simp) hk', ← List.append_assoc, blocks_append _ _ hpc]
    refine Prod.ext rfl ?_
    simp only [List.nil_append]
    rw [show 128 * (k + 1) = (p ++ c).length + 128 * k by rw [hpc]; omega, List.drop_length_add_append]

/-! ### The padding loop -/

/-- The number of zero bytes the loop appends from fill count `n`. -/
def zerosNeeded (n : BitVec 7) : Nat := (112 - n).toNat

theorem zerosNeeded_le (n : BitVec 7) : zerosNeeded n ≤ 127 := by unfold zerosNeeded; have := (112 - n).isLt; omega

theorem zerosNeeded_succ {n : BitVec 7} (h : n ≠ 112) : zerosNeeded n = zerosNeeded (n + 1) + 1 := by
  revert h; revert n; decide

/-- With fuel enough the loop is a run of zero bytes. -/
theorem State.absorbZeros_eq (fuel : Nat) (s : State) (h : zerosNeeded s.n ≤ fuel) :
    State.absorbZeros fuel s = s.absorbAll (List.replicate (zerosNeeded s.n) 0x00) := by
  induction fuel generalizing s with
  | zero =>
    have : zerosNeeded s.n = 0 := by omega
    rw [this]; rfl
  | succ fuel ih =>
    unfold State.absorbZeros
    split
    · next hn => rw [hn]; rfl
    · next hn =>
      have hz := zerosNeeded_succ hn
      rw [ih _ (by rw [State.n_absorb]; omega), State.n_absorb, hz, List.replicate_succ, State.absorbAll_cons]

@[simp] theorem length_be128 (v : BitVec 128) : (be128 v).length = 16 := by simp [be128, beBytes]

/-- Closing a message absorbs one list of bytes and sets the phase. -/
theorem State.closeMessage_eq (s : State) :
    s.closeMessage =
      (s.absorbAll ([0x80] ++ List.replicate (zerosNeeded (s.n + 1)) 0x00 ++ be128 s.len)).setPhase .done := by
  unfold State.closeMessage
  rw [State.absorbZeros_eq _ _ (zerosNeeded_le _), State.n_absorb, List.append_assoc, State.absorbAll_append,
    State.absorbAll_append]
  rfl

@[simp] theorem State.len_closeMessage (s : State) : s.closeMessage.len = s.len := by
  rw [State.closeMessage_eq, State.len_setPhase, State.len_absorbAll]
@[simp] theorem State.err_closeMessage (s : State) : s.closeMessage.err = s.err := by
  rw [State.closeMessage_eq, State.err_setPhase, State.err_absorbAll]
@[simp] theorem State.ovf_closeMessage (s : State) : s.closeMessage.ovf = s.ovf := by
  rw [State.closeMessage_eq, State.ovf_setPhase, State.ovf_absorbAll]
@[simp] theorem State.errcode_closeMessage (s : State) : s.closeMessage.errcode = s.errcode := by
  rw [State.closeMessage_eq, State.errcode_setPhase, State.errcode_absorbAll]
@[simp] theorem State.slot_closeMessage (s : State) : s.closeMessage.slot = s.slot := by
  rw [State.closeMessage_eq, State.slot_setPhase, State.slot_absorbAll]
@[simp] theorem State.sv_closeMessage (s : State) : s.closeMessage.sv = s.sv := by
  rw [State.closeMessage_eq, State.sv_setPhase, State.sv_absorbAll]
@[simp] theorem State.comp_closeMessage (s : State) : s.closeMessage.comp = s.comp := by
  rw [State.closeMessage_eq, State.comp_setPhase, State.comp_absorbAll]
@[simp] theorem State.cv_closeMessage (s : State) : s.closeMessage.cv = s.cv := by
  rw [State.closeMessage_eq, State.cv_setPhase, State.cv_absorbAll]
@[simp] theorem State.host_closeMessage (s : State) : s.closeMessage.host = s.host := by
  rw [State.closeMessage_eq, State.host_setPhase, State.host_absorbAll]
@[simp] theorem State.responses_closeMessage (s : State) : s.closeMessage.responses = s.responses := by
  rw [State.closeMessage_eq, State.responses_setPhase, State.responses_absorbAll]

@[simp] theorem State.ph_closeMessage (s : State) : s.closeMessage.ph = .done := by
  rw [State.closeMessage_eq, State.ph_setPhase]

@[simp] theorem State.n_closeMessage (s : State) : s.closeMessage.n = 0 := by
  rw [State.closeMessage_eq, State.n_setPhase, State.n_absorbAll]
  have key : ∀ n : BitVec 7, n + BitVec.ofNat 7 (1 + zerosNeeded (n + 1) + 16) = 0 := by decide
  simpa [Nat.add_comm, Nat.add_left_comm] using key s.n

theorem State.wf_closeMessage {s : State} (h : s.buf.wf = true) : s.closeMessage.buf.wf = true := by
  rw [State.closeMessage_eq, State.buf_setPhase]; exact State.wf_absorbAll h _

@[simp] theorem State.ph_feedByte (s : State) (x : Byte) : (s.feedByte x).ph = s.ph := by
  simp [State.feedByte]
@[simp] theorem State.err_feedByte (s : State) (x : Byte) : (s.feedByte x).err = s.err := by
  simp [State.feedByte]
@[simp] theorem State.ovf_feedByte (s : State) (x : Byte) : (s.feedByte x).ovf = s.ovf := by
  simp [State.feedByte]
@[simp] theorem State.errcode_feedByte (s : State) (x : Byte) : (s.feedByte x).errcode = s.errcode := by
  simp [State.feedByte]
@[simp] theorem State.slot_feedByte (s : State) (x : Byte) : (s.feedByte x).slot = s.slot := by
  simp [State.feedByte]
@[simp] theorem State.sv_feedByte (s : State) (x : Byte) : (s.feedByte x).sv = s.sv := by
  simp [State.feedByte]
@[simp] theorem State.comp_feedByte (s : State) (x : Byte) : (s.feedByte x).comp = s.comp := by
  simp [State.feedByte]
@[simp] theorem State.cv_feedByte (s : State) (x : Byte) : (s.feedByte x).cv = s.cv := by
  simp [State.feedByte]
@[simp] theorem State.host_feedByte (s : State) (x : Byte) : (s.feedByte x).host = s.host := by
  simp [State.feedByte]
@[simp] theorem State.responses_feedByte (s : State) (x : Byte) : (s.feedByte x).responses = s.responses := by
  simp [State.feedByte]

@[simp] theorem State.len_feedByte (s : State) (x : Byte) : (s.feedByte x).len = s.len + 8 := by
  simp [State.feedByte]

@[simp] theorem State.n_feedByte (s : State) (x : Byte) : (s.feedByte x).n = s.n + 1 := by
  simp [State.feedByte, State.n_absorb]

@[simp] theorem State.h_feedByte (s : State) (x : Byte) : (s.feedByte x).h = (s.absorb x).h := by rfl

@[simp] theorem State.buf_feedByte (s : State) (x : Byte) : (s.feedByte x).buf = (s.absorb x).buf := by rfl

/-- Any reading of a state that feeding a byte keeps is kept by a whole text. -/
theorem State.feedText_keeps {α : Type} (f : State → α) (hf : ∀ s x, f (s.feedByte x) = f s) (s : State)
    (bs : List Byte) : f (s.feedText bs) = f s := by
  induction bs generalizing s with
  | nil => rfl
  | cons x bs ih => exact (ih (s.feedByte x)).trans (hf s x)

@[simp] theorem State.ph_feedText (s : State) (bs : List Byte) : (s.feedText bs).ph = s.ph :=
  State.feedText_keeps State.ph State.ph_feedByte s bs
@[simp] theorem State.err_feedText (s : State) (bs : List Byte) : (s.feedText bs).err = s.err :=
  State.feedText_keeps State.err State.err_feedByte s bs
@[simp] theorem State.ovf_feedText (s : State) (bs : List Byte) : (s.feedText bs).ovf = s.ovf :=
  State.feedText_keeps State.ovf State.ovf_feedByte s bs
@[simp] theorem State.errcode_feedText (s : State) (bs : List Byte) : (s.feedText bs).errcode = s.errcode :=
  State.feedText_keeps State.errcode State.errcode_feedByte s bs
@[simp] theorem State.slot_feedText (s : State) (bs : List Byte) : (s.feedText bs).slot = s.slot :=
  State.feedText_keeps State.slot State.slot_feedByte s bs
@[simp] theorem State.sv_feedText (s : State) (bs : List Byte) : (s.feedText bs).sv = s.sv :=
  State.feedText_keeps State.sv State.sv_feedByte s bs
@[simp] theorem State.comp_feedText (s : State) (bs : List Byte) : (s.feedText bs).comp = s.comp :=
  State.feedText_keeps State.comp State.comp_feedByte s bs
@[simp] theorem State.cv_feedText (s : State) (bs : List Byte) : (s.feedText bs).cv = s.cv :=
  State.feedText_keeps State.cv State.cv_feedByte s bs
@[simp] theorem State.host_feedText (s : State) (bs : List Byte) : (s.feedText bs).host = s.host :=
  State.feedText_keeps State.host State.host_feedByte s bs
@[simp] theorem State.responses_feedText (s : State) (bs : List Byte) : (s.feedText bs).responses = s.responses :=
  State.feedText_keeps State.responses State.responses_feedByte s bs

theorem State.len_feedText (s : State) (bs : List Byte) :
    (s.feedText bs).len = s.len + BitVec.ofNat 128 (8 * bs.length) := by
  induction bs generalizing s with
  | nil => simp [State.feedText]
  | cons x bs ih =>
    have := ih (s.feedByte x)
    rw [State.feedText, List.foldl_cons, ← State.feedText, this, State.len_feedByte, List.length_cons, Nat.mul_add,
      Nat.add_comm (8 * bs.length), BitVec.ofNat_add, BitVec.add_assoc]
    rfl

theorem State.wf_feedText {s : State} (h : s.buf.wf = true) (bs : List Byte) : (s.feedText bs).buf.wf = true := by
  induction bs generalizing s with
  | nil => exact h
  | cons x bs ih => exact ih (s := s.feedByte x) (State.wf_absorb h x)

/-- Feeding a text moves the hash state and the open block as absorbing it does. -/
theorem State.stream_feedText {s : State} (h : s.buf.wf = true) (bs : List Byte) :
    ((s.feedText bs).h, (s.feedText bs).pending) = stream (s.h, s.pending) bs := by
  induction bs generalizing s with
  | nil => rfl
  | cons x bs ih =>
    have hb : ((s.feedByte x).h, (s.feedByte x).pending) = streamByte (s.h, s.pending) x := State.stream_absorb h x
    rw [show s.feedText (x :: bs) = (s.feedByte x).feedText bs from rfl, ih (s := s.feedByte x) (State.wf_absorb h x), hb]
    rfl

/-! ### What the closing of a message leaves in the buffer and in the hash state -/

theorem State.toNat_n_absorb {s : State} (h : s.n.toNat < 127) (x : Byte) : (s.absorb x).n.toNat = s.n.toNat + 1 := by
  rw [State.n_absorb, BitVec.toNat_add]
  exact Nat.mod_eq_of_lt (by change s.n.toNat + 1 < 128; omega)

/-- Bytes that stay in the block, or just fill it, land at `BUF[N]` onward; every other byte is left alone. -/
theorem State.read_absorbAll {s : State} (h : s.buf.wf = true) (bs : List Byte) (hl : s.n.toNat + bs.length ≤ 128)
    (a : Nat) :
    (s.absorbAll bs).buf.read a =
      if s.n.toNat ≤ a then (bs[a - s.n.toNat]?).getD (s.buf.read a) else s.buf.read a := by
  induction bs generalizing s with
  | nil => simp
  | cons x bs ih =>
    rw [List.length_cons] at hl
    rw [State.absorbAll_cons]
    by_cases hb : bs = []
    · subst hb
      rw [State.absorbAll_nil, State.read_absorb h]
      by_cases ha : a = s.n.toNat
      · simp [ha]
      · rw [if_neg ha]
        split
        · rw [List.getElem?_eq_none (by simp; omega)]; rfl
        · rfl
    · have hpos : 0 < bs.length := List.length_pos_iff.2 hb
      have hn : (s.absorb x).n.toNat = s.n.toNat + 1 := State.toNat_n_absorb (by omega) x
      rw [ih (State.wf_absorb h x) (by omega), hn, State.read_absorb h]
      by_cases ha : a = s.n.toNat
      · simp [ha]
      · rw [if_neg ha]
        by_cases hle : s.n.toNat + 1 ≤ a
        · rw [if_pos hle, if_pos (by omega), show a - s.n.toNat = (a - (s.n.toNat + 1)) + 1 by omega,
            List.getElem?_cons_succ]
        · rw [if_neg hle, if_neg (by omega)]

/-- Bytes that just fill the block: it is compressed, the fill count is zero, and the buffer holds that block. -/
theorem State.absorbAll_fill {s : State} (h : s.buf.wf = true) (bs : List Byte) (hl : s.n.toNat + bs.length = 128) :
    (s.absorbAll bs).h = compress s.h (s.pending ++ bs) ∧ (s.absorbAll bs).n = 0 ∧
      (s.absorbAll bs).block = s.pending ++ bs := by
  have hp : s.pending.length < 128 := by rw [State.length_pending]; exact s.n.isLt
  have hs := State.stream_absorbAll h bs
  rw [stream_fill _ _ _ hp (by rw [State.length_pending]; exact hl)] at hs
  refine ⟨congrArg Prod.fst hs, ?_, ?_⟩
  · have := congrArg (fun c => c.2.length) hs
    exact BitVec.eq_of_toNat_eq (by simpa using this)
  · apply List.ext_getElem?
    intro a
    by_cases ha : a < 128
    · have h1 : (s.absorbAll bs).block[a]? = some ((s.absorbAll bs).buf.read a) := by simp [State.block, ha]
      rw [h1, State.read_absorbAll h bs (by omega)]
      by_cases hn : s.n.toNat ≤ a
      · rw [if_pos hn, List.getElem?_append_right (by rw [State.length_pending]; exact hn), State.length_pending,
          List.getElem?_eq_getElem (by omega)]
        rfl
      · rw [if_neg hn, List.getElem?_append_left (by rw [State.length_pending]; omega),
          State.getElem?_pending s (by omega)]
    · rw [List.getElem?_eq_none (by simp [State.block]; omega),
        List.getElem?_eq_none (by simp; omega)]

theorem zerosNeeded_short {n : BitVec 7} (h : n.toNat ≤ 111) : zerosNeeded (n + 1) = 111 - n.toNat := by
  revert h; revert n; decide

theorem zerosNeeded_long {n : BitVec 7} (h : 112 ≤ n.toNat) : zerosNeeded (n + 1) = 127 - n.toNat + 112 := by
  revert h; revert n; decide

/-- Closing a message with room for the length in the open block. -/
theorem State.closeMessage_short {s : State} (h : s.buf.wf = true) (hn : s.n.toNat ≤ 111) :
    s.closeMessage.block = s.pending ++ [0x80] ++ List.replicate (111 - s.n.toNat) 0x00 ++ be128 s.len ∧
      s.closeMessage.h = compress s.h s.closeMessage.block := by
  rw [State.closeMessage_eq, zerosNeeded_short hn]
  obtain ⟨h1, -, h3⟩ := State.absorbAll_fill h
    ([0x80] ++ List.replicate (111 - s.n.toNat) 0x00 ++ be128 s.len) (by simp; omega)
  have hb : ∀ (u : State) p, (u.setPhase p).block = u.block := fun _ _ => rfl
  rw [State.h_setPhase, hb, h1, h3]
  simp

/-- Closing a message without that room: two blocks. -/
theorem State.closeMessage_long {s : State} (h : s.buf.wf = true) (hn : 112 ≤ s.n.toNat) :
    s.closeMessage.block = List.replicate 112 0x00 ++ be128 s.len ∧
      s.closeMessage.h =
        compress (compress s.h (s.pending ++ [0x80] ++ List.replicate (127 - s.n.toNat) 0x00)) s.closeMessage.block := by
  have hlt := s.n.isLt
  rw [State.closeMessage_eq, zerosNeeded_long hn, List.replicate_add,
    show ([0x80] : List Byte) ++ (List.replicate (127 - s.n.toNat) 0x00 ++ List.replicate 112 0x00) ++ be128 s.len =
      ([0x80] ++ List.replicate (127 - s.n.toNat) 0x00) ++ (List.replicate 112 0x00 ++ be128 s.len) by
      simp only [List.append_assoc],
    State.absorbAll_append]
  obtain ⟨a1, a2, -⟩ := State.absorbAll_fill h ([0x80] ++ List.replicate (127 - s.n.toNat) 0x00) (by simp; omega)
  have hw := State.wf_absorbAll h ([0x80] ++ List.replicate (127 - s.n.toNat) 0x00)
  have hp : (s.absorbAll ([0x80] ++ List.replicate (127 - s.n.toNat) 0x00)).pending = [] := by
    unfold State.pending; rw [a2]; rfl
  obtain ⟨b1, -, b3⟩ := State.absorbAll_fill hw (List.replicate 112 0x00 ++ be128 s.len) (by rw [a2]; simp)
  have hb : ∀ (u : State) p, (u.setPhase p).block = u.block := fun _ _ => rfl
  rw [State.h_setPhase, hb, b1, b3, hp, a1]
  simp

theorem State.read_absorb_beyond {s : State} (h : s.buf.wf = true) (x : Byte) {a : Nat} (ha : 128 ≤ a) :
    (s.absorb x).buf.read a = s.buf.read a := by
  rw [State.read_absorb h, if_neg (by have := s.n.isLt; omega)]

end Sys2Proof.Machine
end

