-- ==== Sys2Proof/Laws/Exec.lean ====
section
/-! SUPPORT. Laws/Exec.lean: what exec answers in each case of each command, what the two ways of answering (a response, a
refusal) do, and the fields that the writes of HPUSH and FCOMP leave alone. -/

namespace Sys2Proof.Machine

/-! ### Answering -/

/-- A response alone changes nothing else. -/
theorem State.onlyAnswers_respond (s : State) (r : RspWord) : OnlyAnswers s (s.respond r) r := by
  simp [OnlyAnswers, SameEngine, SameTransients, SameBytes, SameErrors, SameSlots, SameComps, Answers]

/-- A refusal is what R247 says and nothing else. -/
theorem State.refusedWith_refuse (s : State) (code : BitVec 8) : RefusedWith s (s.refuse code) code := by
  simp [RefusedWith, SameEngine, SameTransients, SameBytes, SameSlots, SameComps, Answers]

/-! ### The cases of each command -/

theorem exec_nop (s : State) : exec .nop s = .next (s.respond 0x0000) := by rfl

theorem exec_hinit (s : State) : exec .hinit s = .next (s.openMessage.respond 0x0000) := by rfl

theorem exec_hpush_open {s : State} (h : s.ph = .absorb) (b : Byte) :
    exec (.hpush b) s = .next ((s.pushByte b).respond 0x0000) := if_pos h

theorem exec_hpush_refused {s : State} (h : s.ph ≠ .absorb) (b : Byte) :
    exec (.hpush b) s = .next (s.refuse phaseError) := if_neg h

theorem exec_hfin_open {s : State} (h : s.ph = .absorb) : exec .hfin s = .next (s.closeMessage.respond 0x0000) := if_pos h

theorem exec_hfin_refused {s : State} (h : s.ph ≠ .absorb) : exec .hfin s = .next (s.refuse phaseError) := if_neg h

theorem exec_rdx_ok {s : State} {src : BitVec 3} {x : Words8} (h : s.digestSource src = .ok x) (j : BitVec 7) :
    exec (.rdx src j) s = .next (s.respond (((hex512 x).getD j.toNat 0).setWidth 16)) := by
  simp only [exec, execRdx, h]

theorem exec_rdx_refused {s : State} {src : BitVec 3} {code : BitVec 8} (h : s.digestSource src = .error code)
    (j : BitVec 7) : exec (.rdx src j) s = .next (s.refuse code) := by
  simp only [exec, execRdx, h]

theorem exec_fstart (s : State) : exec .fstart s = .next (s.clearSlots.respond 0x0000) := by rfl

theorem exec_flatch_done {s : State} (h : s.ph = .done) (c : BitVec 2) :
    exec (.flatch c) s = .next ((s.latch c).respond 0x0000) := if_pos h

theorem exec_flatch_refused {s : State} (h : s.ph ≠ .done) (c : BitVec 2) :
    exec (.flatch c) s = .next (s.refuse phaseError) := if_neg h

theorem exec_fcomp_open {s : State} (h : s.ph = .absorb) (k : BitVec 1) :
    exec (.fcomp k) s = .next (s.refuse phaseError) := if_pos h

theorem exec_fcomp_ok {s : State} (h : s.ph ≠ .absorb) (hs : s.sv = 0b1111) (k : BitVec 1) :
    exec (.fcomp k) s = .next ((s.makeComposite k).respond 0x0000) :=
  (if_neg h).trans (if_pos (by rw [State.allSlotsValid, hs]; rfl))

theorem exec_fcomp_missing {s : State} (h : s.ph ≠ .absorb) (hs : s.sv ≠ 0b1111) (k : BitVec 1) :
    exec (.fcomp k) s = .next (s.refuse notValid) :=
  (if_neg h).trans (if_neg (by rw [State.allSlotsValid, beq_iff_eq]; exact hs))

theorem exec_cmp_ok {s : State} (h : s.cv = 0b11) : exec .cmp s = .next (s.respond s.verdict.code) :=
  if_pos (by rw [State.bothCompsValid, h]; rfl)

theorem exec_cmp_refused {s : State} (h : s.cv ≠ 0b11) : exec .cmp s = .next (s.refuse notValid) :=
  if_neg (by rw [State.bothCompsValid, beq_iff_eq]; exact h)

theorem exec_vrds_ok {s : State} (h : s.cv = 0b11) (j : BitVec 5) :
    exec (.vrds j) s = .next (s.respond ((s.verdict.text.getD j.toNat 0x00).setWidth 16)) :=
  if_pos (by rw [State.bothCompsValid, h]; rfl)

theorem exec_vrds_refused {s : State} (h : s.cv ≠ 0b11) (j : BitVec 5) :
    exec (.vrds j) s = .next (s.refuse notValid) :=
  if_neg (by rw [State.bothCompsValid, beq_iff_eq]; exact h)

theorem exec_stat (r : BitVec 2) (s : State) : exec (.stat r) s = .next (s.respond ((s.statByte r).setWidth 16)) := by rfl

theorem exec_rst (s : State) : exec .rst s = .next (s.resetControl.respond 0x0000) := by rfl

/-! ### What the writes of HPUSH and FCOMP leave alone -/

@[simp] theorem State.ph_pushByte (s : State) (b : Byte) : (s.pushByte b).ph = s.ph := by
  simp [State.pushByte]
@[simp] theorem State.err_pushByte (s : State) (b : Byte) : (s.pushByte b).err = s.err := by
  simp [State.pushByte]
@[simp] theorem State.errcode_pushByte (s : State) (b : Byte) : (s.pushByte b).errcode = s.errcode := by
  simp [State.pushByte]
@[simp] theorem State.slot_pushByte (s : State) (b : Byte) : (s.pushByte b).slot = s.slot := by
  simp [State.pushByte]
@[simp] theorem State.sv_pushByte (s : State) (b : Byte) : (s.pushByte b).sv = s.sv := by
  simp [State.pushByte]
@[simp] theorem State.comp_pushByte (s : State) (b : Byte) : (s.pushByte b).comp = s.comp := by
  simp [State.pushByte]
@[simp] theorem State.cv_pushByte (s : State) (b : Byte) : (s.pushByte b).cv = s.cv := by
  simp [State.pushByte]
@[simp] theorem State.host_pushByte (s : State) (b : Byte) : (s.pushByte b).host = s.host := by
  simp [State.pushByte]
@[simp] theorem State.responses_pushByte (s : State) (b : Byte) : (s.pushByte b).responses = s.responses := by
  simp [State.pushByte]

@[simp] theorem State.h_pushByte (s : State) (b : Byte) : (s.pushByte b).h = (s.absorb b).h := by simp [State.pushByte]

@[simp] theorem State.n_pushByte (s : State) (b : Byte) : (s.pushByte b).n = s.n + 1 := by
  simp [State.pushByte, State.n_absorb]

@[simp] theorem State.buf_pushByte (s : State) (b : Byte) : (s.pushByte b).buf = (s.absorb b).buf := by
  simp [State.pushByte]

@[simp] theorem State.len_pushByte (s : State) (b : Byte) : (s.pushByte b).len = s.len + 8 := by simp [State.pushByte]

@[simp] theorem State.ovf_pushByte (s : State) (b : Byte) : (s.pushByte b).ovf = (s.ovf || lenCarries s.len) := by
  simp [State.pushByte]

/-- The engine when the composite is made: the message of the four texts, closed (steps 2 to 4 of R200). -/
def State.hashedSlots (s : State) : State := (s.openMessage.feedText s.slotText).closeMessage

theorem State.makeComposite_eq (s : State) (k : BitVec 1) :
    s.makeComposite k = (s.hashedSlots.storeComp k).clearSlots := by rfl

@[simp] theorem State.err_hashedSlots (s : State) : s.hashedSlots.err = s.err := by
  simp [State.hashedSlots]
@[simp] theorem State.errcode_hashedSlots (s : State) : s.hashedSlots.errcode = s.errcode := by
  simp [State.hashedSlots]
@[simp] theorem State.slot_hashedSlots (s : State) : s.hashedSlots.slot = s.slot := by
  simp [State.hashedSlots]
@[simp] theorem State.comp_hashedSlots (s : State) : s.hashedSlots.comp = s.comp := by
  simp [State.hashedSlots]
@[simp] theorem State.cv_hashedSlots (s : State) : s.hashedSlots.cv = s.cv := by
  simp [State.hashedSlots]
@[simp] theorem State.sv_hashedSlots (s : State) : s.hashedSlots.sv = s.sv := by
  simp [State.hashedSlots]
@[simp] theorem State.host_hashedSlots (s : State) : s.hashedSlots.host = s.host := by
  simp [State.hashedSlots]
@[simp] theorem State.responses_hashedSlots (s : State) : s.hashedSlots.responses = s.responses := by
  simp [State.hashedSlots]
@[simp] theorem State.ovf_hashedSlots (s : State) : s.hashedSlots.ovf = false := by
  simp [State.hashedSlots]
@[simp] theorem State.ph_hashedSlots (s : State) : s.hashedSlots.ph = .done := by
  simp [State.hashedSlots]
@[simp] theorem State.n_hashedSlots (s : State) : s.hashedSlots.n = 0 := by
  simp [State.hashedSlots]

theorem State.wf_hashedSlots {s : State} (h : s.buf.wf = true) : s.hashedSlots.buf.wf = true :=
  State.wf_closeMessage (State.wf_feedText (by rw [State.buf_openMessage]; exact h) _)

/-! ### Everything exec can do -/

/-- The codes of the protocol errors (R246). -/
def ErrorCode (code : BitVec 8) : Prop := code = 0x01 ∨ code = 0x02 ∨ code = 0x03

theorem State.digestSource_cases (s : State) (src : BitVec 3) :
    (∃ x, s.digestSource src = .ok x) ∨ ∃ code, ErrorCode code ∧ s.digestSource src = .error code := by
  unfold State.digestSource
  repeat' split
  all_goals simp [ErrorCode, notValid, phaseError, illegalCommand]

/-- The cases of a command: a refusal, a bare response, or one of the seven effects. -/
theorem exec_cases (i : Instr) (s : State) :
    (∃ code, ErrorCode code ∧ exec i s = .next (s.refuse code)) ∨
    (∃ r, exec i s = .next (s.respond r)) ∨
    (i = .hinit ∧ exec i s = .next (s.openMessage.respond 0x0000)) ∨
    (∃ b, i = .hpush b ∧ s.ph = .absorb ∧ exec i s = .next ((s.pushByte b).respond 0x0000)) ∨
    (i = .hfin ∧ s.ph = .absorb ∧ exec i s = .next (s.closeMessage.respond 0x0000)) ∨
    (i = .fstart ∧ exec i s = .next (s.clearSlots.respond 0x0000)) ∨
    (∃ c, i = .flatch c ∧ s.ph = .done ∧ exec i s = .next ((s.latch c).respond 0x0000)) ∨
    (∃ k, i = .fcomp k ∧ s.ph ≠ .absorb ∧ s.sv = 0b1111 ∧ exec i s = .next ((s.makeComposite k).respond 0x0000)) ∨
    (i = .rst ∧ exec i s = .next (s.resetControl.respond 0x0000)) := by
  cases i with
  | nop => exact .inr (.inl ⟨_, exec_nop s⟩)
  | hinit => exact .inr (.inr (.inl ⟨rfl, exec_hinit s⟩))
  | hpush b =>
    by_cases h : s.ph = .absorb
    · exact .inr (.inr (.inr (.inl ⟨b, rfl, h, exec_hpush_open h b⟩)))
    · exact .inl ⟨_, by simp [ErrorCode, phaseError], exec_hpush_refused h b⟩
  | hfin =>
    by_cases h : s.ph = .absorb
    · exact .inr (.inr (.inr (.inr (.inl ⟨rfl, h, exec_hfin_open h⟩))))
    · exact .inl ⟨_, by simp [ErrorCode, phaseError], exec_hfin_refused h⟩
  | rdx src j =>
    rcases s.digestSource_cases src with ⟨x, h⟩ | ⟨c, hc, h⟩
    · exact .inr (.inl ⟨_, exec_rdx_ok h j⟩)
    · exact .inl ⟨c, hc, exec_rdx_refused h j⟩
  | fstart => exact .inr (.inr (.inr (.inr (.inr (.inl ⟨rfl, exec_fstart s⟩)))))
  | flatch c =>
    by_cases h : s.ph = .done
    · exact .inr (.inr (.inr (.inr (.inr (.inr (.inl ⟨c, rfl, h, exec_flatch_done h c⟩))))))
    · exact .inl ⟨_, by simp [ErrorCode, phaseError], exec_flatch_refused h c⟩
  | fcomp k =>
    by_cases h : s.ph = .absorb
    · exact .inl ⟨_, by simp [ErrorCode, phaseError], exec_fcomp_open h k⟩
    · by_cases hs : s.sv = 0b1111
      · exact .inr (.inr (.inr (.inr (.inr (.inr (.inr (.inl ⟨k, rfl, h, hs, exec_fcomp_ok h hs k⟩)))))))
      · exact .inl ⟨_, by simp [ErrorCode, notValid], exec_fcomp_missing h hs k⟩
  | cmp =>
    by_cases h : s.cv = 0b11
    · exact .inr (.inl ⟨_, exec_cmp_ok h⟩)
    · exact .inl ⟨_, by simp [ErrorCode, notValid], exec_cmp_refused h⟩
  | vrds j =>
    by_cases h : s.cv = 0b11
    · exact .inr (.inl ⟨_, exec_vrds_ok h j⟩)
    · exact .inl ⟨_, by simp [ErrorCode, notValid], exec_vrds_refused h j⟩
  | stat r => exact .inr (.inl ⟨_, exec_stat r s⟩)
  | rst => exact .inr (.inr (.inr (.inr (.inr (.inr (.inr (.inr ⟨rfl, exec_rst s⟩)))))))

end Sys2Proof.Machine
end

