-- ==== Sys2Proof/Laws/PerInstr.lean ====
section
/-! SUPPORT. Laws/PerInstr.lean: one statement about each command as syntax: its word satisfies its own row's match and
mask (R85). -/

namespace Sys2Proof.Laws.MatchesItsRow

/-- The command's word selects the command's row of the opcode map. -/
def Statement (i : Instr) : Prop :=
  (opcodeRows[rowIndex i]?).map (fun r => r.selects (encode i)) = some true

theorem nop : Statement .nop := rfl

theorem hinit : Statement .hinit := rfl

theorem hpush : ∀ b, Statement (.hpush b) := by unfold Statement; decide +kernel

theorem hfin : Statement .hfin := rfl

theorem rdx : ∀ s j, Statement (.rdx s j) := by unfold Statement; decide +kernel

theorem fstart : Statement .fstart := rfl

theorem flatch : ∀ c, Statement (.flatch c) := by unfold Statement; decide +kernel

theorem fcomp : ∀ s, Statement (.fcomp s) := by unfold Statement; decide +kernel

theorem cmp : Statement .cmp := rfl

theorem vrds : ∀ j, Statement (.vrds j) := by unfold Statement; decide +kernel

theorem stat : ∀ r, Statement (.stat r) := by unfold Statement; decide +kernel

theorem rst : Statement .rst := rfl

end Sys2Proof.Laws.MatchesItsRow
end

