-- ==== Sys2Proof/Tests/Slice0.lean ====
section
/-! SUPPORT. Tests/Slice0.lean: small tests, with expected results from the spec's examples and 95_test_vectors.md, and one
witness for each statement that has hypotheses. -/

namespace Sys2Proof.Tests

open Sys2Proof.Machine

/-! ## WellFormed and Decode -/

/-- The one check of `wellFormed`: RDX source 7 (R85). -/
theorem test_wellFormed_refuses_source7 : (Instr.rdx 7 0).wellFormed = false := by decide

theorem test_wellFormed_admits_source6 : (Instr.rdx 6 127).wellFormed = true := by decide

/-! Words of R85 written out bit by bit; 95_test_vectors.md section 7. -/

theorem test_decode_nop : decode 0b0000_0000_0000_0000 = .ok .nop := by rfl
theorem test_decode_hinit : decode 0b0001_0000_0000_0000 = .ok .hinit := by rfl
theorem test_decode_hpush : decode 0b0010_0000_0110_0001 = .ok (.hpush 0x61) := by rfl
theorem test_decode_hfin : decode 0b0011_0000_0000_0000 = .ok .hfin := by rfl
theorem test_decode_rdx : decode 0b0100_0101_0001_0000 = .ok (.rdx 5 16) := by rfl
theorem test_decode_fstart : decode 0b0101_0000_0000_0000 = .ok .fstart := by rfl
theorem test_decode_flatch : decode 0b0110_0011_0000_0000 = .ok (.flatch 3) := by rfl
theorem test_decode_fcomp : decode 0b0111_0001_0000_0000 = .ok (.fcomp 1) := by rfl
theorem test_decode_cmp : decode 0b1000_0000_0000_0000 = .ok .cmp := by rfl
theorem test_decode_vrds : decode 0b1001_0000_0001_1111 = .ok (.vrds 31) := by rfl
theorem test_decode_stat : decode 0b1010_0011_0000_0000 = .ok (.stat 3) := by rfl
theorem test_decode_rst : decode 0b1111_0000_0000_0000 = .ok .rst := by rfl

/-- The reserved words of 95_test_vectors.md section 7. -/
def reservedSamples : List CmdWord :=
  [0x0001, 0x0100, 0x1001, 0x1100, 0x2100, 0x3001, 0x4700, 0x4680, 0x4800, 0x5001, 0x6400, 0x6001, 0x7200, 0x7001,
   0x8001, 0x8100, 0x9020, 0x9100, 0xa400, 0xa001, 0xb000, 0xc000, 0xd000, 0xe000, 0xf001, 0xf100, 0xffff]

theorem test_reserved_words_have_no_command :
    (reservedSamples.all fun w => decodeTableWord 16 w.toNat == none) = true := by decide +kernel

theorem test_reserved_word_of_each_kind :
    decode 0xb000 = .error .unassignedOpcode ∧ decode 0x6400 = .error .mustBeZeroField ∧
      decode 0x4700 = .error .rdxSource7 := ⟨rfl, rfl, rfl⟩

/-! ## Assembler (R90), examples of the rule -/

theorem test_assemble_hpush : assembleLine "HPUSH 0x61 ; a byte".toList = some (some (.hpush 0x61)) := by decide +kernel
theorem test_assemble_rdx : assembleLine "RDX 6, 0".toList = some (some (.rdx 6 0)) := by decide +kernel
theorem test_assemble_refuses_slot4 : assembleLine "FLATCH 4".toList = none := by decide +kernel

/-! ## Functions of the datapath (95_test_vectors.md sections 2 to 5) -/

theorem test_ssig : ssig0 0x0123456789abcdef = 0x6f92c77c6c4f1aa1 ∧ ssig1 0x0123456789abcdef = 0x70a3460dbbd4317a := by
  decide +kernel
theorem test_bsig : bsig0 0x0123456789abcdef = 0xb7c57a100c7ec1ab ∧ bsig1 0x0123456789abcdef = 0x7703112333475567 := by
  decide +kernel
theorem test_ch_maj : ch 0xc 0xa 0x6 = 0xa ∧ maj 0xc 0xa 0x6 = 0xe := by decide +kernel
theorem test_round0_of_empty :
    (round config.pIV 0x8000000000000000).w0 = 0x3162ce8af18cde60 ∧
      (round config.pIV 0x8000000000000000).w4 = 0xdba193a4be6075f9 := by decide +kernel
theorem test_schedule_of_abc : (schedule (pad [0x61, 0x62, 0x63])).getD 79 0 = 0x92aeeed1a7bcf7d2 := by decide +kernel
theorem test_pad_zeros : padZeros 0 = 111 ∧ padZeros 111 = 0 ∧ padZeros 112 = 127 ∧ padZeros 240 = 127 := by decide
theorem test_hash_state_of_empty : (hashState config.pIV []).w0 = 0x3ef8df4ca7af5d24 := by decide +kernel
theorem test_hash_state_of_abc : (hashState config.pIV [0x61, 0x62, 0x63]).w7 = 0x25bdf208ec65990b := by decide +kernel
theorem test_hexdigit : hexdigit 10 = 0x61 ∧ hexdigit 9 = 0x39 := by decide

/-! ## One step of each command -/

/-- The state a command leaves. -/
def after (i : Instr) (s : State) : State :=
  match exec i s with
  | .next t => t
  | .fault _ => s
  | .refused _ => s

/-- The last response. -/
def answer (i : Instr) (s : State) : Option RspWord := (after i s).responses.getLast?

/-- A state with a message just opened. -/
def opened : State := after .hinit State.reset

/-- A state in phase DONE with a recognisable `H`. -/
def finished : State := { State.reset with ph := .done, h := ⟨0x3ef8df4ca7af5d24, 1, 2, 3, 4, 5, 6, 0xf58b26df1dc9ec52⟩ }

/-- A state with both composites valid and equal. -/
def equalComps : State := { State.reset with cv := 0b11 }

/-- A state with both composites valid and different. -/
def unequalComps : State := { equalComps with comp := equalComps.comp.set 0 ⟨1, 0, 0, 0, 0, 0, 0, 0⟩ }

/-- A state with all slots valid and no message open. -/
def fourSlots : State := { finished with sv := 0b1111 }

theorem test_nop : after .nop finished = { finished with responses := [0x0000] } := by decide
theorem test_hinit : opened.ph = .absorb ∧ opened.n = 0 ∧ opened.h.w0 = 0xcbbb9d5dc1059ed8 := by decide
theorem test_hpush : (after (.hpush 0x61) opened).buf.read 0 = 0x61 ∧ (after (.hpush 0x61) opened).n = 1 ∧
    (after (.hpush 0x61) opened).len = 8 := by decide
theorem test_hpush_overflow : (after (.hpush 0) { opened with len := BitVec.ofNat 128 (2 ^ 128 - 8) }).ovf = true ∧
    (after (.hpush 0) { opened with len := BitVec.ofNat 128 (2 ^ 128 - 16) }).ovf = false := by decide
theorem test_hfin_of_empty : (after .hfin opened).h.w0 = 0x3ef8df4ca7af5d24 ∧ (after .hfin opened).n = 0 := by
  decide +kernel
theorem test_hfin_outside_absorb : answer .hfin finished = some 0x8002 := by decide
theorem test_rdx_first_and_last : answer (.rdx 6 0) finished = some 0x0033 ∧ answer (.rdx 6 127) finished = some 0x0032 := by
  decide
theorem test_rdx_invalid_slot : answer (.rdx 0 0) finished = some 0x8003 := by decide
theorem test_fstart : (after .fstart { finished with sv := 0b0011 }).sv = 0 := by decide
theorem test_flatch : (after (.flatch 1) finished).slotAt 1 = finished.h ∧ (after (.flatch 1) finished).sv = 0b0010 := by
  decide
theorem test_fcomp_priority : answer (.fcomp 0) opened = some 0x8002 ∧
    answer (.fcomp 0) { finished with sv := 0b1000 } = some 0x8003 := by decide
theorem test_cmp : answer .cmp equalComps = some 0x0000 ∧ answer .cmp unequalComps = some 0x0001 := by decide
theorem test_vrds_equal : answer (.vrds 6) equalComps = some 0x006e ∧ answer (.vrds 18) equalComps = some 0x0000 := by decide
theorem test_vrds_unequal : answer (.vrds 6) unequalComps = some 0x0074 ∧ answer (.vrds 14) unequalComps = some 0x0000 := by
  decide
theorem test_stat : answer (.stat 0) { finished with err := true } = some 0x0006 ∧
    answer (.stat 2) { finished with sv := 0b1111, cv := 0b01 } = some 0x001f := by decide
theorem test_rst : (after .rst { fourSlots with err := true, errcode := 2 }).errcode = 0 ∧ (after .rst fourSlots).ph = .idle ∧
    (after .rst fourSlots).h = fourSlots.h := by decide
theorem test_first_error_is_kept : (after (.flatch 0) (after .cmp State.reset)).errcode = 0x03 := by decide

/-- A reserved word through the step (95_test_vectors.md, program P4). -/
theorem test_step_refuses_reserved : step (State.reset.withFetchWord 16 0x4680) = .next State.reset.refuseReserved := by rfl

/-! ## Witnesses: for each statement with hypotheses, a state and operands that meet them -/

theorem witness_ResetEventAbandonsCommand :
    { State.reset with host := [.cmdAbandoned 0x3000] }.host = .cmdAbandoned 0x3000 :: [] ∧
      { State.reset with host := [.reset] }.host = .reset :: [] := ⟨rfl, rfl⟩

theorem witness_StepRunsDecodedCommand :
    { opened with host := [.cmd 0x20ff] }.host = .cmd 0x20ff :: [] ∧ decode 0x20ff = .ok (.hpush 0xff) := ⟨rfl, rfl⟩

theorem witness_PlacedWordIsExecuted : (Instr.rdx 6 127).WellFormed := by decide

theorem witness_ReservedWordIsRefused :
    { finished with host := [.cmd 0x4700] }.host = .cmd 0x4700 :: [] ∧ (reservedSamples.all fun w => decide (SpecReserved w)) = true :=
  ⟨rfl, by decide +kernel⟩

theorem witness_EngineWaitsForHost : finished.host = [] := rfl

/-- One state of the invariant in each phase, and one with a recorded refusal. -/
theorem witness_StepKeepsInvariant :
    opened.Inv ∧ (after (.hpush 0x61) opened).Inv ∧ finished.Inv ∧ (after .cmp finished).Inv := by
  refine ⟨?_, ?_, ?_, ?_⟩ <;> constructor <;> decide

/-- Two states that differ in every unspecified register there is room for. -/
theorem witness_UnspecifiedRegistersUnobservable :
    Agree State.reset
      { State.reset with
        h := ⟨1, 2, 3, 4, 5, 6, 7, 8⟩
        len := 5
        buf := [(3, 7)]
        t := 9
        draws := 4
        slot := State.reset.slot.set 2 ⟨1, 2, 3, 4, 5, 6, 7, 8⟩
        comp := State.reset.comp.set 1 ⟨1, 2, 3, 4, 5, 6, 7, 8⟩ } := by
  constructor <;> decide

theorem witness_UnspecifiedRegistersUnobservable_open :
    Agree (after (.hpush 0x61) opened) { after (.hpush 0x61) opened with buf := [(0, 0x61), (1, 7)], draws := 4 } := by
  constructor <;> decide +kernel

theorem witness_DecodeInvertsEncode : (Instr.vrds 31).WellFormed := by decide

theorem witness_EncodeInvertsDecode : decode 0x467f = .ok (.rdx 6 127) := by rfl

/-- A reserved word, a command that is refused, and one that is executed. -/
theorem witness_RefusalsAreExactlyThese :
    (State.reset.offer 0x4700).host = [.cmd 0x4700] ∧ SpecReserved 0x4700 ∧
      ¬ SpecReserved 0x7100 ∧ refusalCode opened (.fcomp 1) = some 0x02 ∧ refusalCode finished (.fcomp 1) = some 0x03 ∧
      refusalCode fourSlots (.fcomp 1) = none := by decide

theorem witness_ErrorAndCompositeFlagsAreSticky : Instr.fcomp 1 ≠ .rst := by decide

theorem witness_CleanRunHasNoError : Instr.rst ∉ [Instr.hinit, .hfin, .hfin] ∧ State.reset.err = false := by decide

/-- HPUSH at both ends of a block. -/
theorem witness_HpushAbsorbsOneByte :
    (opened.ph = .absorb ∧ opened.buf.wf = true) ∧
      ({ opened with n := 127 }.ph = .absorb ∧ { opened with n := 127 }.buf.wf = true ∧ { opened with n := 127 }.n = 127) ∧
      finished.ph ≠ .absorb ∧ State.reset.ph ≠ .absorb := by
  decide

/-- HFIN at every fill count, so on both sides of the boundary at 112. -/
theorem witness_HfinPadsAndCloses :
    ∀ k : BitVec 7, { opened with n := k }.ph = .absorb ∧ { opened with n := k }.buf.wf = true := fun _ => ⟨rfl, rfl⟩

/-- The phases outside ABSORB. -/
theorem witness_HfinPadsAndCloses_refused : finished.ph ≠ .absorb ∧ State.reset.ph ≠ .absorb := by decide

theorem witness_LengthFieldIsBigEndian : opened.ph = .absorb ∧ opened.buf.wf = true := by decide

theorem witness_HinitStartsEmptyMessage : { finished with buf := [(5, 6)] }.buf.wf = true := by decide

/-- The empty open message and one of one byte. -/
theorem witness_HpushExtendsMessage :
    MessageOpen opened [] ∧ MessageOpen (after (.hpush 0x61) opened) [0x61] ∧ 8 * (1 + 1) < 2 ^ 128 := by
  refine ⟨?_, ?_, by decide⟩
  · exact ⟨rfl, by decide, rfl, rfl, rfl, rfl, rfl, by decide⟩
  · exact ⟨rfl, by decide, rfl, by decide, by decide, by decide, by decide +kernel, by decide⟩

theorem witness_HfinFinishesHash : MessageOpen opened [] := witness_HpushExtendsMessage.1

theorem witness_HashLeavesHashState :
    State.reset.buf.wf = true ∧ 8 * ([0x61, 0x62, 0x63] : List Byte).length < 2 ^ 128 := by decide

/-- Every kind of source at the ends of its range. -/
theorem witness_RdxReadsDigestCharacter :
    (6 : BitVec 3) ≠ 7 ∧ (∀ c : BitVec 2, fourSlots.sv.getLsbD c.toNat = true) ∧
      (∀ k : BitVec 1, equalComps.cv.getLsbD k.toNat = true) ∧ finished.ph = .done ∧
      (∀ c : BitVec 2, State.reset.sv.getLsbD c.toNat = false) ∧ (∀ k : BitVec 1, State.reset.cv.getLsbD k.toNat = false) ∧
      opened.ph ≠ .done ∧ State.reset.ph ≠ .done := by decide

theorem witness_RddigestReadsWholeText : finished.digestSource 6 = .ok finished.h := by rfl

theorem witness_FlatchKeepsDigest : finished.ph = .done ∧ opened.ph ≠ .done ∧ State.reset.ph ≠ .done := by decide

theorem witness_FcompMakesComposite :
    (fourSlots.ph ≠ .absorb ∧ fourSlots.sv = 0b1111 ∧ fourSlots.buf.wf = true) ∧
      ({ fourSlots with ph := .idle }.ph ≠ .absorb) ∧ opened.ph = .absorb ∧ (finished.ph ≠ .absorb ∧ finished.sv ≠ 0b1111) ∧
      { finished with sv := 0b0111 }.sv ≠ 0b1111 := by decide

theorem witness_FprintMakesFingerprint :
    State.reset.buf.wf = true ∧ ([1, 2, 3] : List Byte).length < 2 ^ 125 ∧ ([] : List Byte).length < 2 ^ 125 := by decide

theorem witness_SameSlotsGiveSameComposite :
    fourSlots.ph ≠ .absorb ∧ { fourSlots with ph := .idle, h := State.reset.h }.ph ≠ .absorb ∧ fourSlots.sv = 0b1111 ∧
      fourSlots.buf.wf = true ∧ fourSlots.slot = { fourSlots with ph := .idle, h := State.reset.h }.slot := by decide

/-- Equal and unequal composites, both valid. -/
theorem witness_CmpGivesVerdictBit :
    equalComps.cv = 0b11 ∧ equalComps.compAt 0 = equalComps.compAt 1 ∧ unequalComps.cv = 0b11 ∧
      unequalComps.compAt 0 ≠ unequalComps.compAt 1 ∧ finished.cv ≠ 0b11 ∧ { finished with cv := 0b10 }.cv ≠ 0b11 := by decide

theorem witness_VrdsReadsVerdictText :
    equalComps.cv = 0b11 ∧ unequalComps.cv = 0b11 ∧ finished.cv ≠ 0b11 ∧ { finished with cv := 0b01 }.cv ≠ 0b11 := by decide

theorem witness_VerdictReadsWholeText : equalComps.cv = 0b11 ∧ unequalComps.cv = 0b11 := by decide

theorem witness_VerdictIsTextEquality :
    (⟨[], [], [], [], hex512 (equalComps.compAt 0)⟩ : ImageFingerprint).composite = hex512 (equalComps.compAt 0) := rfl

theorem witness_PadIsMinimalAndWhole :
    8 * (List.replicate 111 (0x61 : Byte)).length < 2 ^ 128 ∧ 8 * (List.replicate 112 (0x61 : Byte)).length < 2 ^ 128 := by
  simp

theorem witness_BlocksCutInOrder :
    ([] : List Byte).length = 128 * 0 ∧ (List.replicate 128 (0x61 : Byte)).length = 128 * 1 ∧
      8 * (List.replicate 111 (0x61 : Byte)).length < 2 ^ 128 ∧ 8 * (List.replicate 112 (0x61 : Byte)).length < 2 ^ 128 := by
  simp

theorem witness_ScheduleFollowsRecurrence : (List.replicate 128 (0x61 : Byte)).length = 128 := by simp

theorem witness_RotrMovesBits : 1 ≤ 1 ∧ 1 ≤ 63 ∧ 63 ≤ 63 ∧ 0 < 64 ∧ 63 < 64 := by decide

theorem witness_ChChoosesAndMajVotes : 63 < 64 := by decide

/-- Bit indexes below, at and above where the shifts leave the word. -/
theorem witness_SigmaFunctionsMoveBits : 0 < 64 ∧ 56 < 64 ∧ 57 < 64 ∧ 58 < 64 ∧ 63 < 64 := by decide

theorem witness_CompressRunsEightyRounds : (pad []).length = 128 := by decide +kernel

end Sys2Proof.Tests
end

section
/-! Proofs/Phase.lean: the phase register `PH` under every command (R30). -/

namespace Sys2Proof.Machine

@[simp] theorem State.ph_makeComposite (s : State) (k : BitVec 1) : (s.makeComposite k).ph = .done := by
  simp [State.makeComposite_eq]

/-- HFIN closes an open message and is refused in any other phase. -/
theorem exec_hfin_ph (s : State) :
    ∃ t, exec .hfin s = .next t ∧ t.ph = if s.ph = .absorb then .done else s.ph := by
  by_cases h : s.ph = .absorb
  · exact ⟨_, exec_hfin_open h, by simp [h]⟩
  · exact ⟨_, exec_hfin_refused h, by simp [h]⟩

/-- FCOMP ends in DONE unless a message is open or a slot is missing, when it is refused. -/
theorem exec_fcomp_ph (k : BitVec 1) (s : State) :
    ∃ t, exec (.fcomp k) s = .next t ∧ t.ph = if s.ph ≠ .absorb ∧ s.sv = 0b1111 then .done else s.ph := by
  by_cases h : s.ph = .absorb
  · exact ⟨_, exec_fcomp_open h k, by simp [h]⟩
  by_cases hs : s.sv = 0b1111
  · exact ⟨_, exec_fcomp_ok h hs k, by simp [h, hs]⟩
  · exact ⟨_, exec_fcomp_missing h hs k, (if_neg fun ready => hs ready.2).symm⟩

/-- A command other than the four that R30 names leaves the phase, whether it is executed or refused. -/
theorem exec_keeps_ph {i : Instr} (s : State) (hinit : i ≠ .hinit) (hfin : i ≠ .hfin) (fcomp : ∀ k, i ≠ .fcomp k)
    (rst : i ≠ .rst) : ∃ t, exec i s = .next t ∧ t.ph = s.ph := by
  obtain ⟨code, -, h⟩ | ⟨r, h⟩ | ⟨hi, -⟩ | ⟨b, -, -, h⟩ | ⟨hi, -⟩ | ⟨-, h⟩ | ⟨c, -, -, h⟩ | ⟨k, hi, -⟩ | ⟨hi, -⟩ :=
    exec_cases i s
  · exact ⟨_, h, s.ph_refuse code⟩
  · exact ⟨_, h, s.ph_respond r⟩
  · exact absurd hi hinit
  · exact ⟨_, h, s.ph_pushByte b⟩
  · exact absurd hi hfin
  · exact ⟨_, h, s.ph_clearSlots⟩
  · exact ⟨_, h, s.ph_latch c⟩
  · exact absurd hi (fcomp k)
  · exact absurd hi rst

/-- Settles O21: the four commands that R30 names have a lemma each, and `exec_keeps_ph` answers for the rest. -/
theorem phaseChanges : Obligations.PhaseChanges := by
  refine ⟨rfl, rfl, rfl, rfl, fun i s => ?_⟩
  cases i with
  | hinit => exact ⟨_, exec_hinit s, by simp⟩
  | hfin => exact exec_hfin_ph s
  | fcomp k => exact exec_fcomp_ph k s
  | rst => exact ⟨_, exec_rst s, by simp⟩
  | nop | hpush | rdx | fstart | flatch | cmp | vrds | stat => exact exec_keeps_ph s (by simp) (by simp) (by simp) (by simp)

end Sys2Proof.Machine
end

section
/-! Proofs/LengthField.lean: big-endian bytes and words of a block (R61, R62), and the length field that HFIN leaves in the
block buffer. -/

namespace Sys2Proof.Machine

/-! ### Big-endian bytes and their value -/

@[simp] theorem length_beBytes {w : Nat} (n : Nat) (v : BitVec w) : (beBytes n v).length = n := by simp [beBytes]

/-- Byte `k` of `n` big-endian bytes. -/
theorem getElem?_beBytes {w n k : Nat} (hk : k < n) (v : BitVec w) :
    (beBytes n v)[k]? = some (v.extractLsb' (8 * (n - 1 - k)) 8) := by simp [beBytes, hk]

/-- The bytes of a whole part of a value are the value's bytes from the part's place on. -/
theorem beBytes_extractLsb' {w : Nat} (v : BitVec w) (lo n : Nat) :
    beBytes n (v.extractLsb' lo (8 * n)) = (List.range n).map fun k => v.extractLsb' (lo + 8 * (n - 1 - k)) 8 := by
  apply List.map_congr_left
  intro k hk
  have hlt := List.mem_range.1 hk
  ext i hi
  have hin : 8 * (n - 1 - k) + i < 8 * n := by omega
  simp [hin, Nat.add_assoc]

/-- Splitting a value by bytes splits its big-endian bytes, the upper part first. -/
theorem beBytes_add {w : Nat} (m n : Nat) (v : BitVec w) :
    beBytes (m + n) v = beBytes m (v.extractLsb' (8 * n) (8 * m)) ++ beBytes n (v.extractLsb' 0 (8 * n)) := by
  rw [beBytes_extractLsb', beBytes_extractLsb', beBytes, List.range_add, List.map_append, List.map_map]
  congr 1
  · apply List.map_congr_left
    intro k hk
    have hlt := List.mem_range.1 hk
    rw [show 8 * (m + n - 1 - k) = 8 * n + 8 * (m - 1 - k) by omega]
  · apply List.map_congr_left
    intro k hk
    rw [Function.comp_apply, show m + n - 1 - (m + k) = n - 1 - k by omega, Nat.zero_add]

theorem beValue_append_singleton (w : Nat) (bs : List Byte) (b : Byte) :
    beValue w (bs ++ [b]) = (beValue w bs <<< 8) ||| b.setWidth w := by simp [beValue]

/-- A value is its bits from 8 up, shifted into place, together with its low byte. -/
theorem shiftLeft_or_lowByte {n : Nat} (w : Nat) (v : BitVec (8 * (n + 1))) :
    ((v.extractLsb' 8 (8 * n)).setWidth w <<< 8) ||| (v.extractLsb' 0 8).setWidth w = v.setWidth w := by
  ext i hi
  by_cases h8 : i < 8
  · simp [h8]
  · have hplace : 8 + (i - 8) = i := by omega
    have hbound : i - 8 < 8 * n ↔ i < 8 * (n + 1) := by omega
    simpa [h8, hplace, hbound] using BitVec.lt_of_getLsbD

/-- The big-endian bytes of a value, put together, give the value. -/
theorem beValue_beBytes {n : Nat} (w : Nat) (v : BitVec (8 * n)) : beValue w (beBytes n v) = v.setWidth w := by
  induction n with
  | zero => exact BitVec.eq_of_getLsbD_eq fun i _ => by simp [beBytes, beValue]
  | succ n ih =>
    have hlast : beBytes 1 (v.extractLsb' 0 (8 * 1)) = [v.extractLsb' 0 8] := by simp [beBytes]
    rw [beBytes_add, hlast, beValue_append_singleton, ih, shiftLeft_or_lowByte]

/-- The length field is the two big-endian words `LEN[127:64]` and `LEN[63:0]`. -/
theorem be128_eq_words (v : BitVec 128) :
    be128 v = beBytes 8 (v.extractLsb' 64 64) ++ beBytes 8 (v.extractLsb' 0 64) := beBytes_add 8 8 v

/-! ### Bytes and words of a block -/

theorem State.getElem?_block (s : State) {a : Nat} (h : a < 128) : s.block[a]? = some (s.buf.read a) := by
  simp [State.block, h]

@[simp] theorem State.block_respond (s : State) (r : RspWord) : (s.respond r).block = s.block := by rfl

/-- A word whose big-endian bytes stand at a word boundary of a block is that word of the block. -/
theorem getElem?_blockWords_append {p : List Byte} {i : Nat} (hp : p.length = 8 * i) (hi : i < 16) (x : Word)
    (q : List Byte) : (blockWords (p ++ (beBytes 8 x ++ q)))[i]? = some x := by
  have hbytes : ((p ++ (beBytes 8 x ++ q)).drop (8 * i)).take 8 = beBytes 8 x := by
    rw [List.drop_left' hp, List.take_left' (length_beBytes 8 x)]
  have hx : beValue 64 (beBytes 8 x) = x := (beValue_beBytes (n := 8) 64 x).trans x.setWidth_eq
  simp [blockWords, hi, hbytes, hx]

/-! ### The block that HFIN closes -/

/-- Whether or not the length had room in the open block, it is the end of the last one. -/
theorem State.block_closeMessage {s : State} (h : s.buf.wf = true) :
    ∃ front : List Byte, front.length = 112 ∧ s.closeMessage.block = front ++ be128 s.len := by
  by_cases hn : s.n.toNat ≤ 111
  · exact ⟨_, by simp; omega, (State.closeMessage_short h hn).1⟩
  · exact ⟨_, by simp, (State.closeMessage_long h (by omega)).1⟩

/-- The byte at 112 + `k` is byte `k` of the length. -/
theorem State.read_closeMessage_length {s : State} (h : s.buf.wf = true) {k : Nat} (hk : k < 16) :
    s.closeMessage.buf.read (112 + k) = s.len.extractLsb' (120 - 8 * k) 8 := by
  obtain ⟨front, hfront, hblock⟩ := State.block_closeMessage h
  have hread := s.closeMessage.getElem?_block (a := 112 + k) (by omega)
  rw [hblock, ← hfront, List.getElem?_append_right (Nat.le_add_right ..), Nat.add_sub_cancel_left, hfront, be128,
    getElem?_beBytes hk, show 8 * (16 - 1 - k) = 120 - 8 * k by omega] at hread
  exact (Option.some.inj hread).symm

/-- The last two words of the block are the halves of the length. -/
theorem State.blockWords_closeMessage_length {s : State} (h : s.buf.wf = true) :
    (blockWords s.closeMessage.block)[14]? = some (s.len.extractLsb' 64 64) ∧
      (blockWords s.closeMessage.block)[15]? = some (s.len.extractLsb' 0 64) := by
  obtain ⟨front, hfront, hblock⟩ := State.block_closeMessage h
  rw [hblock, be128_eq_words]
  constructor
  · exact getElem?_blockWords_append hfront (by decide) _ _
  · have hupto : (front ++ beBytes 8 (s.len.extractLsb' 64 64)).length = 8 * 15 := by simp [hfront]
    simpa using getElem?_blockWords_append hupto (by decide) (s.len.extractLsb' 0 64) []

/-- Settles O26: the last block ends in the length, whose bytes and words are those of `be128`. -/
theorem lengthFieldIsBigEndian : Obligations.LengthFieldIsBigEndian := by
  intro s hph hwf
  obtain ⟨h14, h15⟩ := State.blockWords_closeMessage_length hwf
  refine ⟨_, exec_hfin_open hph, fun k hk => ?_, ?_, ?_⟩
  · rw [State.buf_respond]
    exact State.read_closeMessage_length hwf hk
  · rw [State.block_respond]
    exact h14
  · rw [State.block_respond]
    exact h15

end Sys2Proof.Machine
end

section
/-! Proofs/ReservedWords.lean: a word that decodes is its command's word, and no command's word is reserved; so the reserved
words of R87 are refused (R248). -/

namespace Sys2Proof.Machine

/-! ### The fields of a command word (R81) -/

theorem getLsbD_cmdWord (op sel : BitVec 4) (imm : BitVec 8) (i : Nat) :
    (cmdWord op sel imm).getLsbD i =
      if i < 8 then imm.getLsbD i else if i < 12 then sel.getLsbD (i - 8) else op.getLsbD (i - 12) := by
  have hi : i - 8 < 4 ↔ i < 12 := by omega
  simp only [cmdWord, BitVec.getLsbD_append, hi, Nat.sub_sub]

theorem toNat_cmdWord (op sel : BitVec 4) (imm : BitVec 8) :
    (cmdWord op sel imm).toNat = 4096 * op.toNat + 256 * sel.toNat + imm.toNat := by
  rw [cmdWord, BitVec.toNat_append, ← Nat.shiftLeft_add_eq_or_of_lt imm.isLt, BitVec.toNat_append,
    ← Nat.shiftLeft_add_eq_or_of_lt sel.isLt, Nat.shiftLeft_eq, Nat.shiftLeft_eq]
  omega

theorem toNat_op_cmdWord (op sel : BitVec 4) (imm : BitVec 8) : (cmdWord op sel imm >>> 12).toNat = op.toNat := by
  rw [BitVec.toNat_ushiftRight, toNat_cmdWord, Nat.shiftRight_eq_div_pow]
  omega

theorem toNat_sel_cmdWord (op sel : BitVec 4) (imm : BitVec 8) :
    (cmdWord op sel imm >>> 8 &&& 0xf).toNat = sel.toNat := by
  rw [BitVec.toNat_and, BitVec.toNat_ushiftRight, toNat_cmdWord, Nat.shiftRight_eq_div_pow]
  exact (Nat.and_two_pow_sub_one_eq_mod _ 4).trans (by omega)

theorem toNat_imm_cmdWord (op sel : BitVec 4) (imm : BitVec 8) : (cmdWord op sel imm &&& 0xff).toNat = imm.toNat := by
  rw [BitVec.toNat_and, toNat_cmdWord]
  exact (Nat.and_two_pow_sub_one_eq_mod _ 8).trans (by omega)

/-! ### No command's word is reserved -/

theorem not_specReserved_encode {i : Instr} (h : i.WellFormed) : ¬ SpecReserved (encode i) := by
  cases i <;> simp only [SpecReserved, encode, toNat_op_cmdWord, toNat_sel_cmdWord, toNat_imm_cmdWord]
  case rdx src j =>
    have hsrc : src ≠ 7 := by simpa [Instr.WellFormed, Instr.wellFormed] using h
    bv_omega
  all_goals bv_omega

/-! ### A word that decodes is the word of its command -/

/-- The mask of a row covers what is no operand: a word's operands, encoded, are its bits outside the mask with the row's
pattern in the others. Checked bit by bit. -/
theorem encode_build {r : OpcodeRow} (h : r ∈ opcodeRows) (w : CmdWord) :
    encode (r.build w) = w &&& ~~~r.mask ||| r.pattern := by
  simp only [opcodeRows, List.cons_append, List.nil_append, List.mem_cons, List.not_mem_nil, or_false] at h
  apply BitVec.eq_of_getLsbD_eq
  intro k hk
  obtain rfl | rfl | rfl | rfl | rfl | rfl | rfl | rfl | rfl | rfl | rfl | rfl := h
  all_goals
    simp only [encode, getLsbD_cmdWord, selField, immField]
    interval_cases k <;> simp

/-- The pattern of a selected row is the rest of the word. -/
theorem encode_build_of_selects {r : OpcodeRow} (h : r ∈ opcodeRows) {w : CmdWord} (hw : r.selects w = true) :
    encode (r.build w) = w := by
  have hpattern : w &&& r.mask = r.pattern := beq_iff_eq.1 hw
  rw [encode_build h, ← hpattern]
  ext k hk
  cases hm : r.mask[k] <;> simp [hm]

theorem wellFormed_and_encode_of_decode {w : CmdWord} {i : Instr} (h : decode w = .ok i) :
    i.WellFormed ∧ encode i = w := by
  unfold decode at h
  split at h
  · cases h
  next r hr =>
    have hselects : r.selects w = true := List.find?_some (p := fun r : OpcodeRow => r.selects w) hr
    split at h
    next hwf =>
      cases h
      exact ⟨hwf, encode_build_of_selects (List.mem_of_find?_eq_some hr) hselects⟩
    · cases h

/-! ### The refusal -/

theorem decode_eq_error_of_specReserved {w : CmdWord} (h : SpecReserved w) : ∃ e, decode w = .error e := by
  cases hd : decode w with
  | error e => exact ⟨e, rfl⟩
  | ok i =>
    obtain ⟨hwf, rfl⟩ := wellFormed_and_encode_of_decode hd
    exact absurd h (not_specReserved_encode hwf)

theorem step_of_decode_error {s : State} {w : CmdWord} {rest : List HostEvent} {e : Reserved}
    (hs : s.host = .cmd w :: rest) (hw : decode w = .error e) : step s = .next s.takeEvent.refuseReserved := by
  simp [step, hs, hw]

theorem State.takeEvent_of_host {s : State} {e : HostEvent} {rest : List HostEvent} (h : s.host = e :: rest) :
    s.takeEvent = { s with host := rest } := by
  rw [State.takeEvent, h, List.tail_cons]

/-- Settles O5: a reserved word decodes to no command, so the step is the refusal of R247 with code 0x01. -/
theorem reservedWordIsRefused : Obligations.ReservedWordIsRefused := by
  intro s w rest hs hw
  obtain ⟨e, he⟩ := decode_eq_error_of_specReserved hw
  refine ⟨_, step_of_decode_error hs he, ?_, State.responses_refuseReserved _⟩
  rw [State.takeEvent_of_host hs]
  exact State.refusedWith_refuse _ illegalCommand

end Sys2Proof.Machine
end

section
/-! Proofs/Responses.lean: the one response of each command and its data (R89). -/

namespace Sys2Proof.Machine

/-! ### The form of a response (R89) -/

/-- The command gives one response, with bits 14 to 8 zero: an error word when bit 15 is set, and otherwise a word of
`data`. -/
def RespondsWith (i : Instr) (s : State) (data : RspWord → Prop) : Prop :=
  ∃ t r, exec i s = .next t ∧ Answers s t r ∧ (r >>> 8) &&& 0x7f = 0 ∧
    (r.getLsbD 15 = true → r = 0x8001 ∨ r = 0x8002 ∨ r = 0x8003) ∧ (r.getLsbD 15 = false → data r)

section
variable {i : Instr} {s : State} {data : RspWord → Prop}

/-- A refused command answers an error word, whose bit 15 is set, and so no data. -/
theorem RespondsWith.refused {code : BitVec 8} (hcode : ErrorCode code) (h : exec i s = .next (s.refuse code)) :
    RespondsWith i s data := by
  refine ⟨_, _, h, ⟨s.responses_refuse code, s.host_refuse code⟩, ?_⟩
  obtain rfl | rfl | rfl := hcode <;> simp

/-- An executed command answers a byte, so bits 15 to 8 are zero. -/
theorem RespondsWith.executed {u : State} {r : RspWord} (h : exec i s = .next (u.respond r))
    (hu : u.responses = s.responses ∧ u.host = s.host) (hbyte : r >>> 8 = 0) (hdata : data r) : RespondsWith i s data := by
  obtain ⟨hresponses, hhost⟩ := hu
  have h15 : r.getLsbD 15 = false := by simpa using congrArg (BitVec.getLsbD · 7) hbyte
  refine ⟨_, r, h, ⟨?_, ?_⟩, ?_, fun hset => ?_, fun _ => hdata⟩
  · rw [State.responses_respond, hresponses]
  · rw [State.host_respond, hhost]
  · rw [hbyte]; rfl
  · rw [h15] at hset
    cases hset

end

theorem setWidth_ushiftRight_byte (b : Byte) : b.setWidth 16 >>> 8 = 0 := by
  ext k hk
  simp

/-! ### Characters of a digest (R180 to R182) -/

@[simp] theorem length_hex16 (w : Word) : (hex16 w).length = 16 := by simp [hex16]

@[simp] theorem length_hex512 (x : Words8) : (hex512 x).length = 128 := by simp [hex512]

theorem eq_hexdigit_of_mem_hex16 {w : Word} {b : Byte} (h : b ∈ hex16 w) : ∃ n, hexdigit n = b := by
  obtain ⟨p, -, hp⟩ := List.mem_map.1 h
  exact ⟨_, hp⟩

theorem eq_hexdigit_of_mem_hex512 {x : Words8} {b : Byte} (h : b ∈ hex512 x) : ∃ n, hexdigit n = b := by
  simp only [hex512, List.mem_append, or_assoc] at h
  rcases h with h | h | h | h | h | h | h | h <;> exact eq_hexdigit_of_mem_hex16 h

/-- A response word that holds a lowercase hexadecimal digit. -/
def IsHexResponse (r : RspWord) : Prop := (0x30 ≤ r ∧ r ≤ 0x39) ∨ (0x61 ≤ r ∧ r ≤ 0x66)

theorem isHexResponse_hexdigit : ∀ n : BitVec 4, IsHexResponse ((hexdigit n).setWidth 16) := by
  unfold IsHexResponse
  decide

theorem isHexResponse_hex512 (x : Words8) (j : BitVec 7) : IsHexResponse (((hex512 x).getD j.toNat 0).setWidth 16) := by
  have hj : j.toNat < (hex512 x).length := by rw [length_hex512]; exact j.isLt
  obtain ⟨n, hn⟩ := eq_hexdigit_of_mem_hex512 (List.getElem_mem hj)
  rw [List.getD_eq_getElem _ _ hj, ← hn]
  exact isHexResponse_hexdigit n

/-! ### The verdict's code and text (R216, R217) -/

theorem TamperVerdict.code_eq (v : TamperVerdict) : v.code = 0x0000 ∨ v.code = 0x0001 := by
  cases v with
  | notTampered => exact .inl rfl
  | tampered => exact .inr rfl

theorem TamperVerdict.code_ushiftRight_byte (v : TamperVerdict) : v.code >>> 8 = 0 := by
  obtain h | h := v.code_eq <;> rw [h] <;> rfl

theorem TamperVerdict.text_le (v : TamperVerdict) (j : BitVec 5) :
    (v.text.getD j.toNat 0x00).setWidth 16 ≤ (0x7f : RspWord) := by
  cases v <;> revert j <;> decide

/-! ### Every command -/

/-- Settles O17: in each case of a command it is refused with one of the three codes, or answers the data R89 gives it. -/
theorem oneResponsePerCommand : Obligations.OneResponsePerCommand := by
  intro i s
  have hphaseError : ErrorCode phaseError := .inr (.inl rfl)
  have hnotValid : ErrorCode notValid := .inr (.inr rfl)
  cases i with
  | nop => exact RespondsWith.executed (exec_nop s) ⟨rfl, rfl⟩ rfl rfl
  | hinit => exact RespondsWith.executed (exec_hinit s) (by simp) rfl rfl
  | hpush b =>
    by_cases h : s.ph = .absorb
    · exact RespondsWith.executed (exec_hpush_open h b) (by simp) rfl rfl
    · exact RespondsWith.refused hphaseError (exec_hpush_refused h b)
  | hfin =>
    by_cases h : s.ph = .absorb
    · exact RespondsWith.executed (exec_hfin_open h) (by simp) rfl rfl
    · exact RespondsWith.refused hphaseError (exec_hfin_refused h)
  | rdx src j =>
    obtain ⟨x, h⟩ | ⟨code, hcode, h⟩ := s.digestSource_cases src
    · exact RespondsWith.executed (exec_rdx_ok h j) ⟨rfl, rfl⟩ (setWidth_ushiftRight_byte _) (isHexResponse_hex512 x j)
    · exact RespondsWith.refused hcode (exec_rdx_refused h j)
  | fstart => exact RespondsWith.executed (exec_fstart s) (by simp) rfl rfl
  | flatch c =>
    by_cases h : s.ph = .done
    · exact RespondsWith.executed (exec_flatch_done h c) (by simp) rfl rfl
    · exact RespondsWith.refused hphaseError (exec_flatch_refused h c)
  | fcomp k =>
    by_cases h : s.ph = .absorb
    · exact RespondsWith.refused hphaseError (exec_fcomp_open h k)
    by_cases hs : s.sv = 0b1111
    · exact RespondsWith.executed (exec_fcomp_ok h hs k) (by simp [State.makeComposite_eq]) rfl rfl
    · exact RespondsWith.refused hnotValid (exec_fcomp_missing h hs k)
  | cmp =>
    by_cases h : s.cv = 0b11
    · exact RespondsWith.executed (exec_cmp_ok h) ⟨rfl, rfl⟩ s.verdict.code_ushiftRight_byte s.verdict.code_eq
    · exact RespondsWith.refused hnotValid (exec_cmp_refused h)
  | vrds j =>
    by_cases h : s.cv = 0b11
    · exact RespondsWith.executed (exec_vrds_ok h j) ⟨rfl, rfl⟩ (setWidth_ushiftRight_byte _) (s.verdict.text_le j)
    · exact RespondsWith.refused hnotValid (exec_vrds_refused h j)
  | stat q => exact RespondsWith.executed (exec_stat q s) ⟨rfl, rfl⟩ (setWidth_ushiftRight_byte _) rfl
  | rst => exact RespondsWith.executed (exec_rst s) (by simp) rfl rfl

end Sys2Proof.Machine
end

section
/-! Proofs/Padding.lean: the padding of a message as a function and the blocks it is cut into (R110, R114). -/

namespace Sys2Proof.Machine

/-! ### The number that big-endian bytes spell -/

theorem bigEndian_append_singleton (bs : List Byte) (b : Byte) :
    bigEndian (bs ++ [b]) = bigEndian bs * 256 + b.toNat := by simp [bigEndian]

theorem bigEndian_lt (bs : List Byte) : bigEndian bs < 2 ^ (8 * bs.length) := by
  induction bs using List.reverseRecOn with
  | nil => simp [bigEndian]
  | append_singleton bs b ih =>
    rw [bigEndian_append_singleton, List.length_append, List.length_singleton, Nat.mul_add, Nat.pow_add]
    have hb := b.isLt
    omega

/-- A value wide enough for its bytes is the number they spell. -/
theorem toNat_beValue {w : Nat} (bs : List Byte) (hw : 8 * bs.length ≤ w) : (beValue w bs).toNat = bigEndian bs := by
  induction bs using List.reverseRecOn with
  | nil => simp [beValue, bigEndian]
  | append_singleton bs b ih =>
    have hlt : bigEndian (bs ++ [b]) < 2 ^ w := (bigEndian_lt _).trans_le (Nat.pow_le_pow_right (by decide) hw)
    rw [bigEndian_append_singleton] at hlt ⊢
    rw [List.length_append, List.length_singleton] at hw
    have hshift : bigEndian bs <<< 8 = bigEndian bs * 256 := Nat.shiftLeft_eq ..
    have hhigh : bigEndian bs <<< 8 < 2 ^ w := by omega
    have hlow : b.toNat < 2 ^ w := by omega
    rw [beValue_append_singleton, BitVec.toNat_or, BitVec.toNat_shiftLeft, BitVec.toNat_setWidth, ih (by omega),
      Nat.mod_eq_of_lt hhigh, Nat.mod_eq_of_lt hlow, ← Nat.shiftLeft_add_eq_or_of_lt b.isLt, hshift]

theorem bigEndian_beBytes {n : Nat} (v : BitVec (8 * n)) : bigEndian (beBytes n v) = v.toNat := by
  rw [← toNat_beValue (w := 8 * n) _ (by rw [length_beBytes]), beValue_beBytes, BitVec.setWidth_eq]

theorem bigEndian_be128 (v : BitVec 128) : bigEndian (be128 v) = v.toNat := bigEndian_beBytes (n := 16) v

/-! ### The number of zero bytes -/

theorem padZeros_eq (l : Nat) : (padZeros l : Int) = (111 - (l : Int)) % 128 :=
  Int.toNat_of_nonneg (Int.emod_nonneg _ (by decide))

/-- The message, `0x80`, the zeros and the length field make up whole blocks, as many as R114 counts. -/
theorem padded_length_eq (l : Nat) : l + 17 + padZeros l = 128 * ((l + 16) / 128 + 1) := by
  have := padZeros_eq l
  omega

/-- Any run of zeros that gives whole blocks has at least as many. -/
theorem padZeros_le {l z : Nat} (h : (8 * l + 8 + 8 * z + 128) % 1024 = 0) : padZeros l ≤ z := by
  have := padZeros_eq l
  omega

/-! ### The padded message -/

theorem length_pad (m : List Byte) : (pad m).length = m.length + 17 + padZeros m.length := by
  simp [pad]
  omega

theorem length_pad_eq_blocks (m : List Byte) : (pad m).length = 128 * ((m.length + 16) / 128 + 1) :=
  (length_pad m).trans (padded_length_eq _)

/-- Settles O46: `z` is `padZeros`, and the tail is the 16 bytes of the bit length, which fits them. -/
theorem padIsMinimalAndWhole : Obligations.PadIsMinimalAndWhole := by
  intro m hm
  have hlength := padded_length_eq m.length
  refine ⟨padZeros m.length, be128 (BitVec.ofNat 128 (8 * m.length)), rfl, padZeros_eq _, by omega,
    fun z' => padZeros_le, length_be128 _, ?_, length_pad m, ?_, ?_⟩
  · rw [bigEndian_be128, BitVec.toNat_ofNat, Nat.mod_eq_of_lt hm]
  · exact ⟨_, length_pad_eq_blocks m⟩
  · rw [length_pad_eq_blocks]
    omega

/-! ### The blocks of a byte sequence -/

theorem length_of_mem_blocks {p b : List Byte} (h : b ∈ blocks p) : b.length = 128 := by
  obtain ⟨q, hq, rfl⟩ := List.mem_map.1 h
  have hlt := List.mem_range.1 hq
  rw [List.length_take, List.length_drop]
  omega

/-- Whole blocks, put together in order, are the sequence: the first comes off the front, the rest by induction. -/
theorem flatten_blocks {p : List Byte} {nb : Nat} (h : p.length = 128 * nb) : (blocks p).flatten = p := by
  induction nb generalizing p with
  | zero =>
    rw [blocks_of_lt p (by omega), List.length_eq_zero_iff.1 h]
    rfl
  | succ nb ih =>
    have hfirst : (p.take 128).length = 128 := by rw [List.length_take]; omega
    have hrest : (p.drop 128).length = 128 * nb := by rw [List.length_drop]; omega
    calc (blocks p).flatten
        = (blocks (p.take 128 ++ p.drop 128)).flatten := by rw [List.take_append_drop]
      _ = p.take 128 ++ p.drop 128 := by rw [blocks_append _ _ hfirst, List.flatten_cons, ih hrest]
      _ = p := List.take_append_drop 128 p

/-- Settles O47: `flatten_blocks` for the order, and a padded message has the length of that many blocks. -/
theorem blocksCutInOrder : Obligations.BlocksCutInOrder := by
  refine ⟨fun p nb hp => ⟨?_, flatten_blocks hp, fun b => length_of_mem_blocks⟩, fun m _ => ?_⟩
  · rw [length_blocks, hp, Nat.mul_div_cancel_left nb (by decide)]
  · rw [length_blocks, length_pad_eq_blocks, Nat.mul_div_cancel_left _ (by decide)]

end Sys2Proof.Machine
end

section
/-! Proofs/MessageCommands.lean: HINIT, HPUSH and HFIN, each with all it writes and all it leaves alone (R111 to R113,
R116). -/

namespace Sys2Proof.Machine

/-! ### HINIT (R111) -/

/-- Settles O23: the writes of `openMessage` and a response. -/
theorem hinitOpensMessage : Obligations.HinitOpensMessage := by
  refine ⟨rfl, fun s => ⟨_, exec_hinit s, ?_⟩⟩
  simp [SameBytes, SameErrors, SameSlots, SameComps, Answers]

/-! ### HPUSH (R112, R113) -/

theorem decode_hpush (b : Byte) : decode (0x2000 + b.setWidth 16) = .ok (.hpush b) := by
  revert b
  decide +kernel

/-- The 128th byte of a block compresses it. -/
theorem State.h_absorb_full {s : State} (h : s.buf.wf = true) (hn : s.n = 127) (x : Byte) :
    (s.absorb x).h = compress s.h (s.pending ++ [x]) := by
  have hfull : s.pending.length = 127 := s.length_pending.trans ((n_eq_127_iff s.n).1 hn)
  have hstream := State.stream_absorb h x
  rw [streamByte, if_pos hfull] at hstream
  exact congrArg Prod.fst hstream

/-- A byte that leaves room in the block compresses nothing. -/
theorem State.h_absorb_room {s : State} (hn : s.n ≠ 127) (x : Byte) : (s.absorb x).h = s.h := by
  rw [State.absorb, if_neg hn, State.h_setFill, State.h_putByte]

/-- What HPUSH does to the fill count and to the hash state, on the 128th byte of a block and before it. -/
theorem State.fill_and_hash_pushByte {s : State} (h : s.buf.wf = true) (b : Byte) :
    if s.n = 127 then (s.pushByte b).n = 0 ∧ (s.pushByte b).h = compress s.h ((List.range 127).map s.buf.read ++ [b])
    else (s.pushByte b).n.toNat = s.n.toNat + 1 ∧ (s.pushByte b).h = s.h := by
  rw [State.h_pushByte, State.n_pushByte]
  split
  next hn =>
    rw [State.h_absorb_full h hn, State.pending, hn]
    exact ⟨rfl, rfl⟩
  next hn =>
    have hroom : s.n.toNat < 127 := by
      have hne := mt (n_eq_127_iff s.n).2 hn
      omega
    exact ⟨State.n_absorb s b ▸ State.toNat_n_absorb hroom b, State.h_absorb_room hn b⟩

theorem State.ovf_pushByte_iff (s : State) (b : Byte) :
    (s.pushByte b).ovf = true ↔ s.ovf = true ∨ 2 ^ 128 ≤ s.len.toNat + 8 := by
  rw [State.ovf_pushByte, Bool.or_eq_true, lenCarries, decide_eq_true_iff]

/-- Settles O24: the absorbed byte, the fill count and hash state of each case, the length counter, and the frame. -/
theorem hpushAbsorbsOneByte : Obligations.HpushAbsorbsOneByte := by
  refine ⟨decode_hpush, fun s b hph => ⟨_, exec_hpush_refused hph b, s.refusedWith_refuse phaseError⟩,
    fun s b hph hwf => ⟨_, exec_hpush_open hph b, ?_, fun a ha => ?_, State.fill_and_hash_pushByte hwf b, ?_,
      s.ovf_pushByte_iff b, ?_⟩⟩
  · rw [State.buf_respond, State.buf_pushByte, State.read_absorb hwf, if_pos rfl]
  · rw [State.buf_respond, State.buf_pushByte, State.read_absorb hwf, if_neg ha]
  · rw [State.len_respond, State.len_pushByte, BitVec.toNat_add]
    rfl
  · simp [hph, SameErrors, SameSlots, SameComps, Answers]

/-! ### HFIN (R116) -/

/-- Closing a message writes no byte outside the block. -/
theorem State.read_closeMessage_beyond {s : State} (h : s.buf.wf = true) {a : Nat} (ha : 128 ≤ a) :
    s.closeMessage.buf.read a = s.buf.read a :=
  (Memory.read_beyond (State.wf_closeMessage h) ha).trans (Memory.read_beyond h ha).symm

/-- Settles O25: the block or blocks of `closeMessage` by the room left for the length, and the frame. -/
theorem hfinPadsAndCloses : Obligations.HfinPadsAndCloses := by
  refine ⟨rfl, fun s hph => ⟨_, exec_hfin_refused hph, s.refusedWith_refuse phaseError⟩,
    fun s hph hwf => ⟨_, exec_hfin_open hph, fun hshort => ?_, fun hlong => ?_, fun a ha => ?_, ?_⟩⟩
  · rw [State.block_respond, State.h_respond]
    exact State.closeMessage_short hwf hshort
  · rw [State.block_respond, State.h_respond]
    exact State.closeMessage_long hwf hlong
  · rw [State.buf_respond]
    exact State.read_closeMessage_beyond hwf ha
  · simp [SameErrors, SameSlots, SameComps, Answers]

end Sys2Proof.Machine
end

section
/-! Proofs/WordFunctions.lean: the word functions bit by bit (R10, R140 to R142), and the round in exact arithmetic (R150 to
R154). -/

namespace Sys2Proof.Machine

/-! ### Rotations and the functions made of them (R10, R140, R141) -/

/-- Below the top `n` bits a rotation reads the shift right, above them the shift left. -/
theorem getLsbD_rotr (x : Word) {n i : Nat} (hpos : 0 < n) (hn : n < 64) (hi : i < 64) :
    (rotr x n).getLsbD i = x.getLsbD ((i + n) % 64) := by
  rw [rotr, BitVec.getLsbD_or, BitVec.getLsbD_ushiftRight, BitVec.getLsbD_shiftLeft]
  by_cases hlow : i + n < 64
  · have hright : i < 64 - n := by omega
    simp [hright, Nat.mod_eq_of_lt hlow, Nat.add_comm n i]
  · have hleft : ¬ i < 64 - n := by omega
    have hplace : (i + n) % 64 = i - (64 - n) := by omega
    simp [hi, hleft, hplace, show 64 ≤ n + i by omega]

section
variable (x : Word) {i : Nat} (hi : i < 64)
include hi

theorem getLsbD_ssig0 :
    (ssig0 x).getLsbD i = ((x.getLsbD ((i + 1) % 64) ^^ x.getLsbD ((i + 8) % 64)) ^^ x.getLsbD (i + 7)) := by
  simp only [ssig0, BitVec.getLsbD_xor, getLsbD_rotr, BitVec.getLsbD_ushiftRight, Nat.reduceLT, hi, Nat.add_comm 7 i]

theorem getLsbD_ssig1 :
    (ssig1 x).getLsbD i = ((x.getLsbD ((i + 19) % 64) ^^ x.getLsbD ((i + 61) % 64)) ^^ x.getLsbD (i + 6)) := by
  simp only [ssig1, BitVec.getLsbD_xor, getLsbD_rotr, BitVec.getLsbD_ushiftRight, Nat.reduceLT, hi, Nat.add_comm 6 i]

theorem getLsbD_bsig0 : (bsig0 x).getLsbD i =
    ((x.getLsbD ((i + 28) % 64) ^^ x.getLsbD ((i + 34) % 64)) ^^ x.getLsbD ((i + 39) % 64)) := by
  simp only [bsig0, BitVec.getLsbD_xor, getLsbD_rotr, Nat.reduceLT, hi]

theorem getLsbD_bsig1 : (bsig1 x).getLsbD i =
    ((x.getLsbD ((i + 14) % 64) ^^ x.getLsbD ((i + 18) % 64)) ^^ x.getLsbD ((i + 41) % 64)) := by
  simp only [bsig1, BitVec.getLsbD_xor, getLsbD_rotr, Nat.reduceLT, hi]

end

/-- Settles O54: each function by the bits of its rotations and shifts; the examples are evaluated. -/
theorem sigmaFunctionsMoveBits : Obligations.SigmaFunctionsMoveBits :=
  ⟨fun x _ hi => ⟨getLsbD_ssig0 x hi, getLsbD_ssig1 x hi, getLsbD_bsig0 x hi, getLsbD_bsig1 x hi⟩, by decide⟩

/-! ### Ch and Maj (R142) -/

theorem getLsbD_ch (x y z : Word) {i : Nat} (hi : i < 64) :
    (ch x y z).getLsbD i = if x.getLsbD i then y.getLsbD i else z.getLsbD i := by
  rw [ch, BitVec.getLsbD_xor, BitVec.getLsbD_and, BitVec.getLsbD_and, BitVec.getLsbD_not, decide_eq_true hi]
  cases x.getLsbD i <;> simp

theorem getLsbD_maj (x y z : Word) (i : Nat) : (maj x y z).getLsbD i =
    ((x.getLsbD i && y.getLsbD i) ^^ (x.getLsbD i && z.getLsbD i) ^^ (y.getLsbD i && z.getLsbD i)) := by
  simp [maj]

/-- Three bits are mostly 1 exactly when an odd number of their three pairs are both 1. -/
theorem xor_pairs_iff_two_le : ∀ a b c : Bool,
    ((a && b) ^^ (a && c) ^^ (b && c)) = true ↔ 2 ≤ a.toNat + b.toNat + c.toNat := by decide

/-- Settles O50: the bit of `Ch` by the chooser's bit, the bit of `Maj` by the eight cases of three bits. -/
theorem chChoosesAndMajVotes : Obligations.ChChoosesAndMajVotes := fun x y z i hi =>
  ⟨getLsbD_ch x y z hi, getLsbD_maj x y z i ▸ xor_pairs_iff_two_le _ _ _⟩

/-! ### The round (R150, R152, R154) -/

/-- One more summand modulo `2^64`. -/
theorem toNat_add_of_toNat_eq {x y : Word} {m : Nat} (h : x.toNat = m % 2 ^ 64) :
    (x + y).toNat = (m + y.toNat) % 2 ^ 64 := by rw [BitVec.toNat_add, h, Nat.mod_add_mod]

theorem toNat_add_three (x y z : Word) : (x + y + z).toNat = (x.toNat + y.toNat + z.toNat) % 2 ^ 64 :=
  toNat_add_of_toNat_eq (BitVec.toNat_add x y)

theorem toNat_add_five (x y z u w : Word) :
    (x + y + z + u + w).toNat = (x.toNat + y.toNat + z.toNat + u.toNat + w.toNat) % 2 ^ 64 :=
  toNat_add_of_toNat_eq (toNat_add_of_toNat_eq (toNat_add_three x y z))

/-- Settles O55: each sum of the round is an exact sum modulo `2^64`, and the other six words move. -/
theorem roundAddsOldA : Obligations.RoundAddsOldA :=
  ⟨rfl, fun _ _ => ⟨toNat_add_five .., BitVec.toNat_add .., toNat_add_three .., rfl, rfl, rfl, BitVec.toNat_add ..,
    rfl, rfl, rfl⟩⟩

end Sys2Proof.Machine
end

section
/-! Proofs/Schedule.lean: the message schedule word by word (R145). -/

namespace Sys2Proof.Machine

/-- Word `i` by the recurrence of R145, from the words before it. -/
def scheduleStep (w : Nat → Word) (i : Nat) : Word := ssig1 (w (i - 2)) + w (i - 7) + ssig0 (w (i - 15)) + w (i - 16)

theorem scheduleStep_congr {w w' : Nat → Word} {i : Nat} (hi : 0 < i) (h : ∀ j, j < i → w j = w' j) :
    scheduleStep w i = scheduleStep w' i := by
  rw [scheduleStep, scheduleStep, h (i - 2) (by omega), h (i - 7) (by omega), h (i - 15) (by omega),
    h (i - 16) (by omega)]

theorem nextScheduleWord_eq (w : List Word) : nextScheduleWord w = scheduleStep (w.getD · 0) w.length := rfl

/-! ### Expansion -/

@[simp] theorem length_expandSchedule (k : Nat) (w : List Word) : (expandSchedule k w).length = w.length + k := by
  induction k generalizing w with
  | zero => rfl
  | succ k ih => rw [expandSchedule, ih, List.length_append, List.length_singleton, Nat.add_assoc, Nat.add_comm 1]

/-- Expansion keeps the words it starts from. -/
theorem getD_expandSchedule_of_lt (k : Nat) {w : List Word} {i : Nat} (hi : i < w.length) :
    (expandSchedule k w).getD i 0 = w.getD i 0 := by
  induction k generalizing w with
  | zero => rfl
  | succ k ih =>
    have happend : i < (w ++ [nextScheduleWord w]).length := by simp; omega
    rw [expandSchedule, ih happend, List.getD_append _ _ _ _ hi]

/-- Each added word is the recurrence's, from the words before it. -/
theorem getD_expandSchedule_of_ge {k : Nat} {w : List Word} {i : Nat} (hw : 0 < w.length) (hlow : w.length ≤ i)
    (hhigh : i < w.length + k) :
    (expandSchedule k w).getD i 0 = scheduleStep ((expandSchedule k w).getD · 0) i := by
  induction k generalizing w with
  | zero => omega
  | succ k ih =>
    have hlength : (w ++ [nextScheduleWord w]).length = w.length + 1 := List.length_append
    obtain rfl | hlater := hlow.eq_or_lt
    · calc (expandSchedule (k + 1) w).getD w.length 0
          = (w ++ [nextScheduleWord w]).getD w.length 0 := getD_expandSchedule_of_lt k (by omega)
        _ = scheduleStep (w.getD · 0) w.length := by
            rw [List.getD_append_right _ _ _ _ le_rfl, Nat.sub_self, List.getD_cons_zero, nextScheduleWord_eq]
        _ = scheduleStep ((expandSchedule (k + 1) w).getD · 0) w.length :=
            scheduleStep_congr hw fun j hj => (getD_expandSchedule_of_lt (k + 1) hj).symm
    · exact ih (by omega) (by omega) (by omega)

/-! ### The schedule of a block -/

@[simp] theorem length_blockWords (block : List Byte) : (blockWords block).length = 16 := by simp [blockWords]

@[simp] theorem length_schedule (block : List Byte) : (schedule block).length = 80 := by simp [schedule]

theorem getD_schedule_of_lt (block : List Byte) {i : Nat} (hi : i < 16) :
    (schedule block).getD i 0 = beValue 64 ((block.drop (8 * i)).take 8) := by
  rw [schedule, getD_expandSchedule_of_lt 64 (by rwa [length_blockWords])]
  simp [blockWords, hi]

theorem getD_schedule_of_ge (block : List Byte) {i : Nat} (hlow : 16 ≤ i) (hhigh : i < 80) :
    (schedule block).getD i 0 = scheduleStep ((schedule block).getD · 0) i := by
  have hlength := length_blockWords block
  exact getD_expandSchedule_of_ge (by omega) (by omega) (by omega)

theorem toNat_getD_schedule (block : List Byte) {i : Nat} (hi : i < 16) :
    ((schedule block).getD i 0).toNat = bigEndian ((block.drop (8 * i)).take 8) := by
  have hbytes : ((block.drop (8 * i)).take 8).length ≤ 8 := List.length_take_le ..
  rw [getD_schedule_of_lt block hi, toNat_beValue _ (by omega)]

/-- Settles O48: the words that the expansion starts from are the block's, those it adds are the recurrence's. -/
theorem scheduleFollowsRecurrence : Obligations.ScheduleFollowsRecurrence := fun block _ =>
  ⟨length_schedule block, fun _ => toNat_getD_schedule block, fun _ => getD_schedule_of_ge block⟩

end Sys2Proof.Machine
end

section
/-! Proofs/Rounds.lean: the working variables before each round, and `compress` as the last of them added back (R156). -/

namespace Sys2Proof.Machine

/-- The working variables before round `i` of a compression, those after the last round for `i = 80`. (Irreducible as
`compress` is, so that the elaborator unfolds no rounds.) -/
@[irreducible] def workingVars (hin : Words8) (block : List Byte) (i : Nat) : Words8 :=
  ((schedule block).take i).foldl round hin

@[simp] theorem workingVars_zero (hin : Words8) (block : List Byte) : workingVars hin block 0 = hin := by
  rw [workingVars, List.take_zero, List.foldl_nil]

theorem workingVars_succ (hin : Words8) (block : List Byte) {i : Nat} (hi : i < 80) :
    workingVars hin block (i + 1) = round (workingVars hin block i) ((schedule block).getD i 0) := by
  have hlength : i < (schedule block).length := by rwa [length_schedule]
  rw [workingVars, workingVars, List.take_succ_eq_append_getElem hlength, List.foldl_append,
    List.getD_eq_getElem _ _ hlength, List.foldl_cons, List.foldl_nil]

theorem compress_eq_addWords (hin : Words8) (block : List Byte) :
    compress hin block = addWords hin (workingVars hin block 80) := by
  unfold compress workingVars
  rw [List.take_of_length_le (length_schedule block).le]

/-- Settles O56: the schedule's words and the working variables meet the rules' equations; the example is evaluated. -/
theorem compressRunsEightyRounds : Obligations.CompressRunsEightyRounds :=
  ⟨fun hin block _ => ⟨fun i => (schedule block).getD i 0, workingVars hin block, fun _ => toNat_getD_schedule block,
    fun _ => getD_schedule_of_ge block, workingVars_zero hin block, fun _ => workingVars_succ hin block,
    compress_eq_addWords hin block⟩, by decide +kernel⟩

end Sys2Proof.Machine
end

section
/-! Proofs/MicroOperations.lean: the micro-operations write the transient registers up to the add-back, and step by step they
build the schedule and run the rounds of `compress` (R165, R166). -/

namespace Sys2Proof.Machine

/-! ### What a micro-operation writes (R165) -/

/-- The state with other transient registers. -/
def State.setTransients (s : State) (v : Words8) (w : Vector Word 80) (t : BitVec 7) : State := { s with v, w, t }

section
variable (s : State) (v : Words8) (w : Vector Word 80) (t : BitVec 7)

@[simp] theorem State.h_setTransients : (s.setTransients v w t).h = s.h := by rfl
@[simp] theorem State.buf_setTransients : (s.setTransients v w t).buf = s.buf := by rfl
@[simp] theorem State.n_setTransients : (s.setTransients v w t).n = s.n := by rfl
@[simp] theorem State.len_setTransients : (s.setTransients v w t).len = s.len := by rfl
@[simp] theorem State.ph_setTransients : (s.setTransients v w t).ph = s.ph := by rfl
@[simp] theorem State.err_setTransients : (s.setTransients v w t).err = s.err := by rfl
@[simp] theorem State.ovf_setTransients : (s.setTransients v w t).ovf = s.ovf := by rfl
@[simp] theorem State.errcode_setTransients : (s.setTransients v w t).errcode = s.errcode := by rfl
@[simp] theorem State.slot_setTransients : (s.setTransients v w t).slot = s.slot := by rfl
@[simp] theorem State.sv_setTransients : (s.setTransients v w t).sv = s.sv := by rfl
@[simp] theorem State.comp_setTransients : (s.setTransients v w t).comp = s.comp := by rfl
@[simp] theorem State.cv_setTransients : (s.setTransients v w t).cv = s.cv := by rfl
@[simp] theorem State.host_setTransients : (s.setTransients v w t).host = s.host := by rfl
@[simp] theorem State.responses_setTransients : (s.setTransients v w t).responses = s.responses := by rfl

end

/-- `W` after `u.LOAD`: its first sixteen words are the block's. -/
def State.loadedWords (s : State) : Vector Word 80 :=
  Vector.ofFn fun i => if i.val < 16 then s.buf.memRead (8 * i.val) 8 else s.w[i]

/-- `W[k]`, for `k` up to 79. -/
def wordAt (w : Vector Word 80) (k : Nat) : Word := w[k]?.getD 0

theorem State.uLoad_eq (s : State) : s.uLoad = s.setTransients s.h s.loadedWords 16 := rfl

theorem State.uExpand_setTransients (s : State) (v : Words8) (w : Vector Word 80) {t : BitVec 7} (hlow : 16 ≤ t)
    (hhigh : t ≤ 79) : (s.setTransients v w t).uExpand =
      some (s.setTransients v (w.setIfInBounds t.toNat (scheduleStep (wordAt w) t.toNat))
        (if t = 79 then 0 else t + 1)) := if_pos ⟨hlow, hhigh⟩

theorem State.uRound_setTransients (s : State) (v : Words8) (w : Vector Word 80) {t : BitVec 7} (ht : t ≤ 79) :
    (s.setTransients v w t).uRound = some (s.setTransients (round v (wordAt w t.toNat)) w (t + 1)) := if_pos ht

/-- The add-back, and all that no micro-operation writes. -/
theorem State.uAdd_setTransients (s : State) (v : Words8) (w : Vector Word 80) (t : BitVec 7) :
    (s.setTransients v w t).uAdd = (s.setHash (addWords s.h v)).setTransients v w t := rfl

/-- A property of a step count and a state that each micro-operation carries to the next count holds after all of them. -/
theorem repeatMicro_induct {op : State → Option State} {n : Nat} {P : Nat → State → Prop}
    (hstep : ∀ k u, k < n → P k u → ∃ t, op u = some t ∧ P (k + 1) t) {s : State} (hstart : P 0 s) :
    ∃ t, repeatMicro op n s = some t ∧ P n t := by
  suffices hfrom : ∀ j k u, k + j = n → P k u → ∃ t, repeatMicro op j u = some t ∧ P n t from
    hfrom n 0 s (Nat.zero_add n) hstart
  intro j
  induction j with
  | zero => rintro k u rfl hu; exact ⟨u, rfl, hu⟩
  | succ j ih =>
    intro k u hk hu
    obtain ⟨t, hop, ht⟩ := hstep k u (by omega) hu
    rw [repeatMicro, hop]
    exact ih (k + 1) t (by omega) ht

/-! ### The schedule in `W` -/

/-- The first `n` words of `W` are the schedule's. -/
def HoldsSchedule (w : Vector Word 80) (block : List Byte) (n : Nat) : Prop :=
  ∀ i, i < n → wordAt w i = (schedule block).getD i 0

theorem State.memRead_eq_beValue_block (s : State) {i : Nat} (hi : i < 16) :
    s.buf.memRead (8 * i) 8 = beValue 64 ((s.block.drop (8 * i)).take 8) := by
  have hbytes : (s.block.drop (8 * i)).take 8 = (List.range 8).map fun k => s.buf.read (8 * i + k) := by
    apply List.ext_getElem
    · simp [State.block]; omega
    · simp [State.block]
  rw [hbytes]
  rfl

theorem State.holdsSchedule_loadedWords (s : State) : HoldsSchedule s.loadedWords s.block 16 := by
  intro i hi
  have hread : wordAt s.loadedWords i = s.buf.memRead (8 * i) 8 := by
    simp [wordAt, State.loadedWords, hi, show i < 80 by omega]
  rw [hread, s.memRead_eq_beValue_block hi, getD_schedule_of_lt _ hi]

/-- The recurrence's word in the next place makes one more word of the schedule. -/
theorem HoldsSchedule.succ {w : Vector Word 80} {block : List Byte} {n : Nat} (h : HoldsSchedule w block n)
    (hlow : 16 ≤ n) (hhigh : n < 80) :
    HoldsSchedule (w.setIfInBounds n (scheduleStep (wordAt w) n)) block (n + 1) := by
  intro i hi
  rw [wordAt, Vector.getElem?_setIfInBounds]
  obtain rfl | hlt : i = n ∨ i < n := by omega
  · rw [if_pos rfl, if_pos hhigh, Option.getD_some, getD_schedule_of_ge block hlow hhigh]
    exact scheduleStep_congr (by omega) h
  · rw [if_neg (by omega)]
    exact h i hlt

/-- The state after `u.LOAD` and `k` times `u.EXPAND` from `s`. -/
def Expanded (s : State) (k : Nat) (u : State) : Prop :=
  ∃ w t, HoldsSchedule w s.block (16 + k) ∧ t.toNat = (16 + k) % 80 ∧ u = s.setTransients s.h w t

theorem expanded_uLoad (s : State) : Expanded s 0 s.uLoad :=
  ⟨_, 16, s.holdsSchedule_loadedWords, rfl, s.uLoad_eq⟩

theorem Expanded.uExpand {s u : State} {k : Nat} (hk : k < 64) (h : Expanded s k u) :
    ∃ u', u.uExpand = some u' ∧ Expanded s (k + 1) u' := by
  obtain ⟨w, t, hw, ht, rfl⟩ := h
  have hplace : t.toNat = 16 + k := by omega
  rw [← hplace] at hw
  refine ⟨_, s.uExpand_setTransients s.h w (by bv_omega) (by bv_omega), _, _, ?_, ?_, rfl⟩
  · rw [← Nat.add_assoc, ← hplace]
    exact hw.succ (by omega) (by omega)
  · split <;> bv_omega

/-- After 64 times `u.EXPAND` all of `W` is the schedule and `t` is back at 0. -/
theorem State.repeatMicro_uExpand (s : State) : ∃ w, HoldsSchedule w s.block 80 ∧
    repeatMicro State.uExpand 64 s.uLoad = some (s.setTransients s.h w 0) := by
  obtain ⟨_, hrun, w, t, hw, ht, rfl⟩ := repeatMicro_induct (fun _ _ => Expanded.uExpand) (expanded_uLoad s)
  obtain rfl : t = 0 := BitVec.eq_of_toNat_eq ht
  exact ⟨w, hw, hrun⟩

/-! ### The rounds over `W` -/

section
variable {s : State} {w : Vector Word 80} {block : List Byte} (hw : HoldsSchedule w block 80)
include hw

/-- `u.ROUND` with `t = k` is round `k` of a compression. -/
theorem State.uRound_workingVars {k : Nat} (hk : k < 80) :
    (s.setTransients (workingVars s.h block k) w (BitVec.ofNat 7 k)).uRound =
      some (s.setTransients (workingVars s.h block (k + 1)) w (BitVec.ofNat 7 (k + 1))) := by
  have ht : (BitVec.ofNat 7 k).toNat = k := Nat.mod_eq_of_lt (by omega)
  have hnext : BitVec.ofNat 7 k + 1 = BitVec.ofNat 7 (k + 1) := (BitVec.ofNat_add k 1).symm
  rw [s.uRound_setTransients _ w (by bv_omega), ht, hw k hk, ← workingVars_succ s.h block hk, hnext]

/-- After 80 times `u.ROUND` over the schedule, `V` holds the working variables after the last round. -/
theorem State.repeatMicro_uRound :
    repeatMicro State.uRound 80 (s.setTransients s.h w 0) = some (s.setTransients (workingVars s.h block 80) w 80) := by
  obtain ⟨_, hrun, rfl⟩ := repeatMicro_induct
    (P := fun k u => u = s.setTransients (workingVars s.h block k) w (BitVec.ofNat 7 k))
    (fun k u hk hu => ⟨_, hu ▸ State.uRound_workingVars hw hk, rfl⟩) rfl
  rwa [workingVars_zero] at hrun

end

/-! ### The whole sequence (R166) -/

theorem State.microCompress_eq (s : State) : ∃ v w t,
    s.microCompress = some ((s.setHash (compress s.h s.block)).setTransients v w t) := by
  obtain ⟨w, hw, hexpand⟩ := s.repeatMicro_uExpand
  refine ⟨workingVars s.h s.block 80, w, 80, ?_⟩
  rw [State.microCompress, hexpand, Option.bind_some, State.repeatMicro_uRound hw, Option.map_some,
    State.uAdd_setTransients, ← compress_eq_addWords]

/-- Settles O51: the expansion fills `W`, the rounds run over it, and the add-back gives `compress`. -/
theorem microOperationsCompress : Obligations.MicroOperationsCompress := by
  intro s
  obtain ⟨v, w, t, hrun⟩ := s.microCompress_eq
  refine ⟨_, hrun, ?_⟩
  simp [SameBytes, SameErrors, SameSlots, SameComps]

end Sys2Proof.Machine
end

section
/-! Proofs/DigestText.lean: the text of a digest, its characters by position and the words read back from it (R180 to R184),
and the command RDX (R185). -/

namespace Sys2Proof.Machine

/-! ### The digit of a nibble (R180) -/

theorem toNat_hexdigit : ∀ n : BitVec 4,
    (hexdigit n).toNat = if n.toNat ≤ 9 then 0x30 + n.toNat else 0x61 + (n.toNat - 10) := by decide

theorem hexdigit_injective : Function.Injective hexdigit := by
  unfold Function.Injective
  decide

/-! ### The nibbles of a word (R63, R181) -/

/-- Nibble `15 - p` of a word, as its character `p` shows it. -/
theorem toNat_nibble (w : Word) {p : Nat} (hp : p < 16) :
    (w.extractLsb' (60 - 4 * p) 4).toNat = w.toNat / 16 ^ (15 - p) % 16 := by
  have hpow : 2 ^ (60 - 4 * p) = 16 ^ (15 - p) := by
    rw [show 60 - 4 * p = 4 * (15 - p) by omega, Nat.pow_mul]
  rw [BitVec.extractLsb'_toNat, Nat.shiftRight_eq_div_pow, hpow]

theorem getElem?_hex16 (w : Word) {p : Nat} (hp : p < 16) :
    (hex16 w)[p]? = some (hexdigit (w.extractLsb' (60 - 4 * p) 4)) := by simp [hex16, hp]

/-- Each bit of a word stands in one nibble of its text, so the text fixes the word. -/
theorem hex16_injective : Function.Injective hex16 := by
  intro x y h
  have hnibble (p : Nat) (hp : p < 16) : x.extractLsb' (60 - 4 * p) 4 = y.extractLsb' (60 - 4 * p) 4 :=
    hexdigit_injective (List.map_inj_left.1 h p (List.mem_range.2 hp))
  apply BitVec.eq_of_getLsbD_eq
  intro i hi
  have hbit := congrArg (BitVec.getLsbD · (i % 4)) (hnibble (15 - i / 4) (by omega))
  have hplace : 60 - 4 * (15 - i / 4) + i % 4 = i := by omega
  have hlt : i % 4 < 4 := Nat.mod_lt _ (by decide)
  simpa [hlt, hplace] using hbit

/-! ### The text of eight words (R182, R184) -/

theorem append_hex16_inj {p q : List Byte} {x y : Word} : p ++ hex16 x = q ++ hex16 y ↔ p = q ∧ x = y := by
  constructor
  · intro h
    obtain ⟨hfront, hlast⟩ := List.append_inj' h (by rw [length_hex16, length_hex16])
    exact ⟨hfront, hex16_injective hlast⟩
  · rintro ⟨rfl, rfl⟩
    rfl

/-- Settles O52: the texts are cut word by word from the end, and each piece fixes its word. -/
theorem hexTextIsInjective : Obligations.HexTextIsInjective := by
  rintro ⟨⟩ ⟨⟩
  simp only [hex512, append_hex16_inj, hex16_injective.eq_iff, Words8.mk.injEq, and_assoc]

theorem hex512_eq_flatMap (x : Words8) :
    hex512 x = [x.w0, x.w1, x.w2, x.w3, x.w4, x.w5, x.w6, x.w7].flatMap hex16 := by
  simp [hex512]

/-- Character `j` of a row of words is character `j mod 16` of word `j div 16`. -/
theorem getElem?_flatMap_hex16 {ws : List Word} {j : Nat} (hj : j < 16 * ws.length) :
    (ws.flatMap hex16)[j]? = (hex16 (ws.getD (j / 16) 0))[j % 16]? := by
  induction ws generalizing j with
  | nil => simp at hj
  | cons w ws ih =>
    rw [List.length_cons] at hj
    rw [List.flatMap_cons]
    by_cases hfirst : j < 16
    · rw [List.getElem?_append_left (by rwa [length_hex16]), Nat.div_eq_of_lt hfirst, Nat.mod_eq_of_lt hfirst,
        List.getD_cons_zero]
    · have hdiv : j / 16 = (j - 16) / 16 + 1 := by omega
      have hmod : j % 16 = (j - 16) % 16 := by omega
      rw [List.getElem?_append_right (by rw [length_hex16]; omega), length_hex16, ih (by omega), hdiv, hmod,
        List.getD_cons_succ]

/-- The text's character at each of the 128 positions is the one R63 places there. -/
theorem toNat_getD_hex512 (x : Words8) {j : Nat} (hj : j < 128) : ((hex512 x).getD j 0).toNat = digestChar x j := by
  have hp : j % 16 < 16 := Nat.mod_lt _ (by decide)
  rw [List.getD_eq_getElem?_getD, hex512_eq_flatMap, getElem?_flatMap_hex16 hj, getElem?_hex16 _ hp, Option.getD_some,
    toNat_hexdigit, toNat_nibble _ hp, digestChar]

/-! ### The digest sources (R185) -/

section
variable (s : State)

theorem State.digestSource_slot (c : BitVec 2) : s.digestSource (c.setWidth 3) =
    if s.sv.getLsbD c.toNat then .ok (s.slotAt c) else .error notValid := by
  have hlow : c.setWidth 3 < 4 := by bv_omega
  have hsel : (c.setWidth 3).extractLsb' 0 2 = c := by revert c; decide
  rw [State.digestSource, if_pos hlow, hsel, State.slotValid]

theorem State.digestSource_comp (k : BitVec 1) : s.digestSource (4 + k.setWidth 3) =
    if s.cv.getLsbD k.toNat then .ok (s.compAt k) else .error notValid := by
  have hhigh : ¬ 4 + k.setWidth 3 < 4 := by bv_omega
  have hlow : 4 + k.setWidth 3 < 6 := by bv_omega
  have hsel : (4 + k.setWidth 3).extractLsb' 0 1 = k := by revert k; decide
  rw [State.digestSource, if_neg hhigh, if_pos hlow, hsel, State.compValid]

theorem State.digestSource_hash : s.digestSource 6 = if s.ph = .done then .ok s.h else .error phaseError := rfl

end

/-! ### RDX (R185) -/

theorem decode_rdx : ∀ (src : BitVec 3) (j : BitVec 7), src ≠ 7 →
    decode (0x4000 + 256 * src.setWidth 16 + j.setWidth 16) = .ok (.rdx src j) := by
  decide +kernel

theorem exec_rdx_reads {s : State} {src : BitVec 3} {x : Words8} (h : s.digestSource src = .ok x) (j : BitVec 7) :
    ∃ t r, exec (.rdx src j) s = .next t ∧ OnlyAnswers s t r ∧ r.toNat = digestChar x j.toNat := by
  refine ⟨_, _, exec_rdx_ok h j, s.onlyAnswers_respond _, ?_⟩
  rw [BitVec.toNat_setWidth_of_le (by decide), toNat_getD_hex512 x j.isLt]

theorem exec_rdx_refuses {s : State} {src : BitVec 3} {code : BitVec 8} (h : s.digestSource src = .error code)
    (j : BitVec 7) : ∃ t, exec (.rdx src j) s = .next t ∧ RefusedWith s t code :=
  ⟨_, exec_rdx_refused h j, s.refusedWith_refuse code⟩

/-- Settles O31: what each source gives, read or refused. -/
theorem rdxReadsDigestCharacter : Obligations.RdxReadsDigestCharacter := by
  refine ⟨decode_rdx, fun s j => ⟨fun c hc => ?_, fun c hc => ?_, fun k hk => ?_, fun k hk => ?_, fun hph => ?_,
    fun hph => ?_⟩⟩
  · exact exec_rdx_reads (by rw [State.digestSource_slot, if_pos hc]) j
  · exact exec_rdx_refuses (by rw [State.digestSource_slot, hc]; rfl) j
  · exact exec_rdx_reads (by rw [State.digestSource_comp, if_pos hk]) j
  · exact exec_rdx_refuses (by rw [State.digestSource_comp, hk]; rfl) j
  · exact exec_rdx_reads (by rw [State.digestSource_hash, if_pos hph]) j
  · exact exec_rdx_refuses (by rw [State.digestSource_hash, if_neg hph]; rfl) j

end Sys2Proof.Machine
end

section
/-! Proofs/HashCommands.lean: closing the message of any absorbed bytes leaves its `hash_state` (R158), and what the commands
of `HASH m` leave, each answering `0x0000` (R91, R117). -/

namespace Sys2Proof.Machine

/-! ### Absorbed bytes and their padding -/

theorem stream_append (c : Words8 × List Byte) (p q : List Byte) : stream c (p ++ q) = stream (stream c p) q :=
  List.foldl_append

/-- The padding loop appends the zeros that R110 counts, from the fill count that a message of `l` bytes leaves. -/
theorem zerosNeeded_eq_padZeros {n : BitVec 7} {l : Nat} (h : n.toNat = l % 128) : zerosNeeded (n + 1) = padZeros l := by
  have hpad := padZeros_eq l
  obtain hshort | hlong : n.toNat ≤ 111 ∨ 112 ≤ n.toNat := by omega
  · rw [zerosNeeded_short hshort]; omega
  · rw [zerosNeeded_long hlong]; omega

/-- The bytes `m` are absorbed, from the initial words `iv`: the hash state and the open block stand where the byte stream
leads, and `LEN` counts its bits. (Of any length, where `MessageOpen` bounds it.) -/
structure Absorbed (iv : Words8) (m : List Byte) (u : State) : Prop where
  canonical : u.buf.wf = true
  streamed : (u.h, u.pending) = stream (iv, []) m
  length : u.len = BitVec.ofNat 128 (8 * m.length)

section
variable {iv : Words8} {m : List Byte} {u : State} (h : Absorbed iv m u)
include h

theorem Absorbed.fill : u.n.toNat = m.length % 128 := by
  have hpending : u.pending = m.drop (128 * (m.length / 128)) := by
    have hstream := h.streamed
    rw [stream_eq _ _ _ (by simp), List.nil_append] at hstream
    exact congrArg Prod.snd hstream
  rw [← u.length_pending, hpending, List.length_drop]
  omega

/-- The bytes that the closing absorbs are the padding, so the blocks compressed are those of the padded message. -/
theorem Absorbed.h_closeMessage : u.closeMessage.h = hashState iv m := by
  have hpad : m ++ ([0x80] ++ List.replicate (zerosNeeded (u.n + 1)) 0x00 ++ be128 u.len) = pad m := by
    rw [zerosNeeded_eq_padZeros h.fill, h.length]
    simp only [pad, List.append_assoc]
  have hstream := State.stream_absorbAll h.canonical
    ([0x80] ++ List.replicate (zerosNeeded (u.n + 1)) 0x00 ++ be128 u.len)
  rw [h.streamed, ← stream_append, hpad, stream_eq _ _ _ (by simp)] at hstream
  rw [State.closeMessage_eq, State.h_setPhase]
  exact congrArg Prod.fst hstream

end

/-! ### A row of HPUSH commands (R113) -/

/-- The commands HPUSH for the bytes of `m` in order, each answered. -/
def State.pushText (s : State) (m : List Byte) : State := m.foldl (fun u b => (u.pushByte b).respond 0x0000) s

@[simp] theorem State.pushText_nil (s : State) : s.pushText [] = s := by rfl

@[simp] theorem State.pushText_cons (s : State) (b : Byte) (m : List Byte) :
    s.pushText (b :: m) = ((s.pushByte b).respond 0x0000).pushText m := by rfl

/-- Any reading of a state that HPUSH keeps is kept by a whole row of them. -/
theorem State.pushText_keeps {α : Type} (f : State → α) (hf : ∀ u b, f ((u.pushByte b).respond 0x0000) = f u) (s : State)
    (m : List Byte) : f (s.pushText m) = f s := by
  induction m generalizing s with
  | nil => rfl
  | cons b m ih => rw [State.pushText_cons, ih, hf]

section
variable (s : State) (m : List Byte)

@[simp] theorem State.ph_pushText : (s.pushText m).ph = s.ph := State.pushText_keeps State.ph (by simp) s m
@[simp] theorem State.err_pushText : (s.pushText m).err = s.err := State.pushText_keeps State.err (by simp) s m
@[simp] theorem State.errcode_pushText : (s.pushText m).errcode = s.errcode :=
  State.pushText_keeps State.errcode (by simp) s m
@[simp] theorem State.slot_pushText : (s.pushText m).slot = s.slot := State.pushText_keeps State.slot (by simp) s m
@[simp] theorem State.sv_pushText : (s.pushText m).sv = s.sv := State.pushText_keeps State.sv (by simp) s m

@[simp] theorem State.responses_pushText :
    (s.pushText m).responses = s.responses ++ List.replicate m.length 0x0000 := by
  induction m generalizing s with
  | nil => simp
  | cons b m ih => simp [ih, List.replicate_succ]

end

/-- A pushed byte is absorbed and counted. -/
theorem Absorbed.pushByte {iv : Words8} {m : List Byte} {u : State} (h : Absorbed iv m u) (b : Byte) :
    Absorbed iv (m ++ [b]) ((u.pushByte b).respond 0x0000) where
  canonical := by simpa using State.wf_absorb h.canonical b
  streamed := by
    have hpending : ((u.pushByte b).respond 0x0000).pending = (u.absorb b).pending := by
      simp [State.pending, State.n_absorb]
    rw [State.h_respond, State.h_pushByte, hpending, State.stream_absorb h.canonical, h.streamed, stream_append]
    rfl
  length := by
    rw [State.len_respond, State.len_pushByte, h.length, List.length_append, List.length_singleton, Nat.mul_add,
      BitVec.ofNat_add]
    rfl

theorem Absorbed.pushText {iv : Words8} {p : List Byte} {u : State} (h : Absorbed iv p u) (m : List Byte) :
    Absorbed iv (p ++ m) (u.pushText m) := by
  induction m generalizing p u with
  | nil => simpa using h
  | cons b m ih => simpa using ih (h.pushByte b)

/-! ### The commands of `HASH m` (R91) -/

/-- Commands after others run from the state that those leave. -/
theorem execAll_append {is js : List Instr} {s t : State} (h : execAll is s = .next t) :
    execAll (is ++ js) s = execAll js t := by
  induction is generalizing s with
  | nil => cases h; rfl
  | cons i is ih =>
    simp only [execAll, List.cons_append] at h ⊢
    cases hi : exec i s with
    | next u => rw [hi] at h; exact ih h
    | fault r => rw [hi] at h; cases h
    | refused r => rw [hi] at h; cases h

theorem execAll_cons {i : Instr} {is : List Instr} {s t : State} (h : exec i s = .next t) :
    execAll (i :: is) s = execAll is t := by
  simp only [execAll, h]

theorem execAll_map_hpush {s : State} (h : s.ph = .absorb) (m : List Byte) :
    execAll (m.map .hpush) s = .next (s.pushText m) := by
  induction m generalizing s with
  | nil => rfl
  | cons b m ih => rw [List.map_cons, execAll_cons (exec_hpush_open h b), ih (by simpa using h), State.pushText_cons]

/-- The message `m` opened, pushed and closed, each command answered. -/
def State.hashMessage (s : State) (m : List Byte) : State :=
  ((s.openMessage.respond 0x0000).pushText m).closeMessage.respond 0x0000

theorem execAll_hashCommands (s : State) (m : List Byte) : execAll (hashCommands m) s = .next (s.hashMessage m) := by
  rw [hashCommands, execAll_cons (exec_hinit s), execAll_append (execAll_map_hpush (by simp) m),
    execAll_cons (exec_hfin_open (by simp))]
  rfl

section
variable (s : State) (m : List Byte)

@[simp] theorem State.ph_hashMessage : (s.hashMessage m).ph = .done := by simp [State.hashMessage]
@[simp] theorem State.err_hashMessage : (s.hashMessage m).err = s.err := by simp [State.hashMessage]
@[simp] theorem State.errcode_hashMessage : (s.hashMessage m).errcode = s.errcode := by simp [State.hashMessage]
@[simp] theorem State.slot_hashMessage : (s.hashMessage m).slot = s.slot := by simp [State.hashMessage]
@[simp] theorem State.sv_hashMessage : (s.hashMessage m).sv = s.sv := by simp [State.hashMessage]

@[simp] theorem State.responses_hashMessage :
    (s.hashMessage m).responses = s.responses ++ List.replicate (m.length + 2) 0x0000 := by
  rw [show m.length + 2 = 1 + m.length + 1 by omega, List.replicate_add, List.replicate_add]
  simp [State.hashMessage]

end

/-- An opened message has no byte yet. -/
theorem absorbed_openMessage {s : State} (h : s.buf.wf = true) : Absorbed config.pIV [] (s.openMessage.respond 0x0000) where
  canonical := by simpa using h
  streamed := by simp [State.pending, stream]
  length := by simp

section
variable {s : State} (h : s.buf.wf = true) (m : List Byte)
include h

theorem State.absorbed_pushText : Absorbed config.pIV m ((s.openMessage.respond 0x0000).pushText m) := by
  simpa using (absorbed_openMessage h).pushText m

theorem State.h_hashMessage : (s.hashMessage m).h = hashState config.pIV m := by
  rw [State.hashMessage, State.h_respond, (State.absorbed_pushText h m).h_closeMessage]

theorem State.wf_hashMessage : (s.hashMessage m).buf.wf = true := by
  rw [State.hashMessage, State.buf_respond]
  exact State.wf_closeMessage (State.absorbed_pushText h m).canonical

end

end Sys2Proof.Machine
end

section
/-! Proofs/Fingerprinter.lean: FSTART, FLATCH and FCOMP, each with all it writes and all it leaves alone (R196, R197, R200), and
the composite message (R201). -/

namespace Sys2Proof.Machine

/-! ### FSTART (R196) -/

/-- Settles O33: the write of `clearSlots` and a response. -/
theorem fstartClearsSlotValids : Obligations.FstartClearsSlotValids := by
  refine ⟨rfl, fun s => ⟨_, exec_fstart s, ?_⟩⟩
  simp [SameEngine, SameTransients, SameBytes, SameErrors, SameComps, Answers]

/-! ### Slots, composites and their valid bits after a write (R36 to R39) -/

@[simp] theorem State.slotAt_respond (s : State) (r : RspWord) : (s.respond r).slotAt = s.slotAt := by rfl
@[simp] theorem State.slotValid_respond (s : State) (r : RspWord) : (s.respond r).slotValid = s.slotValid := by rfl
@[simp] theorem State.compAt_respond (s : State) (r : RspWord) : (s.respond r).compAt = s.compAt := by rfl
@[simp] theorem State.compValid_respond (s : State) (r : RspWord) : (s.respond r).compValid = s.compValid := by rfl

/-- Setting bit `i` makes it 1 and keeps the others. -/
theorem getLsbD_or_one_shiftLeft {w i : Nat} (x : BitVec w) (hi : i < w) (j : Nat) :
    (x ||| (1 <<< i)).getLsbD j = (x.getLsbD j || decide (i = j)) := by
  have hbit : ((1 <<< i : Nat) : BitVec w) = BitVec.twoPow w i := by
    apply BitVec.eq_of_toNat_eq
    rw [BitVec.toNat_twoPow, ← Nat.one_shiftLeft]
    rfl
  rw [BitVec.getLsbD_or, hbit, BitVec.getLsbD_twoPow, decide_eq_true hi, Bool.true_and]

section
variable (s : State)

theorem State.slotAt_latch (c d : BitVec 2) : (s.latch c).slotAt d = if c = d then s.h else s.slotAt d := by
  simp only [State.slotAt, State.slot_latch, Vector.getElem_set, BitVec.toNat_inj]

theorem State.slotValid_latch (c d : BitVec 2) : (s.latch c).slotValid d = (s.slotValid d || decide (c = d)) := by
  simp only [State.slotValid, State.sv_latch, getLsbD_or_one_shiftLeft (w := 4) _ c.isLt, BitVec.toNat_inj]

theorem State.compAt_storeComp (k d : BitVec 1) : (s.storeComp k).compAt d = if k = d then s.h else s.compAt d := by
  simp only [State.compAt, State.comp_storeComp, Vector.getElem_set, BitVec.toNat_inj]

theorem State.compValid_storeComp (k d : BitVec 1) :
    (s.storeComp k).compValid d = (s.compValid d || decide (k = d)) := by
  simp only [State.compValid, State.cv_storeComp, getLsbD_or_one_shiftLeft (w := 2) _ k.isLt, BitVec.toNat_inj]

end

/-! ### FLATCH (R197) -/

theorem decode_flatch : ∀ c : BitVec 2, decode (0x6000 + 256 * c.setWidth 16) = .ok (.flatch c) := by decide

/-- Settles O34: the slot and bit that `latch` writes, those it keeps, and the frame. -/
theorem flatchKeepsDigest : Obligations.FlatchKeepsDigest := by
  refine ⟨decode_flatch, fun s c hph => ⟨_, exec_flatch_refused hph c, s.refusedWith_refuse phaseError⟩,
    fun s c hph => ⟨_, exec_flatch_done hph c, ?_, ?_, fun d hd => ⟨?_, ?_⟩, ?_⟩⟩
  · simp [State.slotAt_latch]
  · simp [State.slotValid_latch]
  · simp [State.slotAt_latch, hd.symm]
  · simp [State.slotValid_latch, hd.symm]
  · simp [SameEngine, SameTransients, SameBytes, SameErrors, SameComps, Answers]

/-! ### The composite message (R201) -/

/-- The codes of the lowercase hexadecimal characters (R180). -/
theorem hexdigit_lowercase : ∀ n : BitVec 4,
    (0x30 ≤ hexdigit n ∧ hexdigit n ≤ 0x39) ∨ (0x61 ≤ hexdigit n ∧ hexdigit n ≤ 0x66) := by decide

/-- The last block of the composite message, which holds its padding alone. -/
def compositePadding : List Byte := [0x80] ++ List.replicate 111 0x00 ++ be128 4096

@[simp] theorem length_compositePadding : compositePadding.length = 128 := by simp [compositePadding]

section
variable (s : State)

@[simp] theorem State.length_slotText : s.slotText.length = 512 := by simp [State.slotText]

theorem State.eq_hexdigit_of_mem_slotText {b : Byte} (h : b ∈ s.slotText) : ∃ n, hexdigit n = b := by
  simp only [State.slotText, List.mem_append, or_assoc] at h
  rcases h with h | h | h | h <;> exact eq_hexdigit_of_mem_hex512 h

theorem State.pad_slotText : pad s.slotText = s.slotText ++ compositePadding := by
  have hzeros : padZeros 512 = 111 := rfl
  rw [pad, State.length_slotText, hzeros, List.append_assoc, List.append_assoc]
  rfl

theorem State.blocks_pad_slotText : blocks (pad s.slotText) =
    [hex512 (s.slotAt 0), hex512 (s.slotAt 1), hex512 (s.slotAt 2), hex512 (s.slotAt 3), compositePadding] := by
  have hlast : blocks (compositePadding ++ []) = [compositePadding] := blocks_append _ _ length_compositePadding
  rw [List.append_nil] at hlast
  rw [State.pad_slotText, State.slotText]
  simp only [List.append_assoc, blocks_append, length_hex512, hlast]

end

/-- Settles O36: the four texts are whole blocks, so the padding is the fifth. -/
theorem compositeMessageHasFiveBlocks : Obligations.CompositeMessageHasFiveBlocks := by
  intro s
  refine ⟨s.length_slotText, fun c hc => ?_, ?_, by decide, ?_, s.blocks_pad_slotText⟩
  · obtain ⟨n, rfl⟩ := s.eq_hexdigit_of_mem_slotText hc
    exact hexdigit_lowercase n
  · simp only [State.pad_slotText, compositePadding, List.append_assoc]
  · simp [State.pad_slotText]

/-! ### FCOMP (R200) -/

theorem decode_fcomp : ∀ k : BitVec 1, decode (0x7000 + 256 * k.setWidth 16) = .ok (.fcomp k) := by decide

/-- The engine with the text of the slots absorbed (steps 2 and 3 of R200). -/
def State.fedSlots (s : State) : State := s.openMessage.feedText s.slotText

theorem State.hashedSlots_eq (s : State) : s.hashedSlots = s.fedSlots.closeMessage := by rfl

theorem State.len_fedSlots (s : State) : s.fedSlots.len = 4096 := by
  simp [State.fedSlots, State.len_feedText]

@[simp] theorem State.len_hashedSlots (s : State) : s.hashedSlots.len = 4096 := by
  rw [State.hashedSlots_eq, State.len_closeMessage, State.len_fedSlots]

section
variable {s : State} (h : s.buf.wf = true)
include h

theorem State.absorbed_fedSlots : Absorbed config.pIV s.slotText s.fedSlots where
  canonical := State.wf_feedText (by simpa using h) _
  streamed := by
    rw [State.fedSlots, State.stream_feedText (by simpa using h)]
    simp [State.pending]
  length := by simp [State.len_fedSlots]

theorem State.h_hashedSlots : s.hashedSlots.h = hashState config.pIV s.slotText :=
  (State.absorbed_fedSlots h).h_closeMessage

/-- The text ends with a block, so its padding stands in the last one alone. -/
theorem State.block_hashedSlots : s.hashedSlots.block = compositePadding := by
  have hfed := State.absorbed_fedSlots h
  have hfill : s.fedSlots.n.toNat = 0 := by rw [hfed.fill, State.length_slotText]
  have hpending : s.fedSlots.pending = [] := by simp [State.pending, hfill]
  obtain ⟨hblock, -⟩ := State.closeMessage_short hfed.canonical (by omega)
  rw [State.hashedSlots_eq, hblock, hpending, hfill, State.len_fedSlots]
  rfl

theorem State.read_hashedSlots_beyond {a : Nat} (ha : 128 ≤ a) : s.hashedSlots.buf.read a = s.buf.read a :=
  (Memory.read_beyond (State.wf_hashedSlots h) ha).trans (Memory.read_beyond h ha).symm

end

/-! What FCOMP leaves is the hashed slots' engine, with the composite stored and the slots' bits cleared. -/

section
variable (s : State) (k : BitVec 1)

@[simp] theorem State.h_makeComposite : (s.makeComposite k).h = s.hashedSlots.h := by
  simp [State.makeComposite_eq]

@[simp] theorem State.buf_makeComposite : (s.makeComposite k).buf = s.hashedSlots.buf := by
  simp [State.makeComposite_eq]

theorem State.block_makeComposite : (s.makeComposite k).block = s.hashedSlots.block := by
  rw [State.block, State.block, State.buf_makeComposite]

theorem State.compAt_makeComposite (d : BitVec 1) :
    (s.makeComposite k).compAt d = if k = d then s.hashedSlots.h else s.compAt d := by
  have hclear (u : State) : u.clearSlots.compAt d = u.compAt d := rfl
  have hkept : s.hashedSlots.compAt d = s.compAt d := by simp [State.compAt]
  rw [State.makeComposite_eq, hclear, State.compAt_storeComp, hkept]

theorem State.compValid_makeComposite (d : BitVec 1) :
    (s.makeComposite k).compValid d = (s.compValid d || decide (k = d)) := by
  have hclear (u : State) : u.clearSlots.compValid d = u.compValid d := rfl
  have hkept : s.hashedSlots.compValid d = s.compValid d := by simp [State.compValid]
  rw [State.makeComposite_eq, hclear, State.compValid_storeComp, hkept]

end

/-- Settles O35: the composite and bit that are stored and those kept, the block that ends the message, and the frame. -/
theorem fcompMakesComposite : Obligations.FcompMakesComposite := by
  refine ⟨decode_fcomp, fun s k hph => ⟨_, exec_fcomp_open hph k, s.refusedWith_refuse phaseError⟩,
    fun s k hph hsv => ⟨_, exec_fcomp_missing hph hsv k, s.refusedWith_refuse notValid⟩,
    fun s k hph hsv hwf => ⟨_, exec_fcomp_ok hph hsv k, ?_, ?_, ?_, fun d hd => ⟨?_, ?_⟩, ?_, fun a ha => ?_, ?_⟩⟩
  · rw [State.compAt_respond, State.compAt_makeComposite, if_pos rfl, State.h_hashedSlots hwf, State.slotText]
  · simp [State.compAt_makeComposite]
  · simp [State.compValid_makeComposite]
  · simp [State.compAt_makeComposite, hd.symm]
  · simp [State.compValid_makeComposite, hd.symm]
  · rw [State.block_respond, State.block_makeComposite, State.block_hashedSlots hwf, compositePadding]
  · rw [State.buf_respond, State.buf_makeComposite]
    exact State.read_hashedSlots_beyond hwf ha
  · simp [State.makeComposite_eq, SameErrors, Answers]

end Sys2Proof.Machine
end

section
/-! Proofs/Fprint.lean: the commands of `FPRINT s, full, r, g, b` (R91, R202): four messages hashed and latched, and their
composite. -/

namespace Sys2Proof.Machine

/-! ### A message hashed and latched -/

/-- The message `m` hashed into slot `c`, each command answered. -/
def State.latchMessage (s : State) (c : BitVec 2) (m : List Byte) : State :=
  ((s.hashMessage m).latch c).respond 0x0000

section
variable (s : State) (c : BitVec 2) (m : List Byte)

theorem execAll_hash_latch (js : List Instr) :
    execAll (hashCommands m ++ .flatch c :: js) s = execAll js (s.latchMessage c m) := by
  rw [execAll_append (execAll_hashCommands s m), execAll_cons (exec_flatch_done (by simp) c)]
  rfl

@[simp] theorem State.ph_latchMessage : (s.latchMessage c m).ph = .done := by simp [State.latchMessage]
@[simp] theorem State.err_latchMessage : (s.latchMessage c m).err = s.err := by simp [State.latchMessage]
@[simp] theorem State.errcode_latchMessage : (s.latchMessage c m).errcode = s.errcode := by simp [State.latchMessage]
@[simp] theorem State.sv_latchMessage : (s.latchMessage c m).sv = s.sv ||| (1 <<< c.toNat) := by
  simp [State.latchMessage]

@[simp] theorem State.responses_latchMessage :
    (s.latchMessage c m).responses = s.responses ++ List.replicate (m.length + 3) 0x0000 := by
  simp [State.latchMessage, List.replicate_succ']

end

section
variable {s : State} (h : s.buf.wf = true) (c : BitVec 2) (m : List Byte)
include h

theorem State.wf_latchMessage : (s.latchMessage c m).buf.wf = true := by
  rw [State.latchMessage, State.buf_respond, State.buf_latch]
  exact State.wf_hashMessage h m

theorem State.slotAt_latchMessage (d : BitVec 2) :
    (s.latchMessage c m).slotAt d = if c = d then hashState config.pIV m else s.slotAt d := by
  have hkept : (s.hashMessage m).slotAt d = s.slotAt d := by simp [State.slotAt]
  rw [State.latchMessage, State.slotAt_respond, State.slotAt_latch, State.h_hashMessage h, hkept]

end

/-! ### The whole sequence -/

/-- The four slots of a fingerprint latched, from cleared valid bits. -/
def State.latchFingerprint (s : State) (full r g b : List Byte) : State :=
  ((((s.clearSlots.respond 0x0000).latchMessage 0 full).latchMessage 1 r).latchMessage 2 g).latchMessage 3 b

section
variable (s : State) (full r g b : List Byte)

@[simp] theorem State.ph_latchFingerprint : (s.latchFingerprint full r g b).ph = .done := by
  simp [State.latchFingerprint]
@[simp] theorem State.err_latchFingerprint : (s.latchFingerprint full r g b).err = s.err := by
  simp [State.latchFingerprint]
@[simp] theorem State.errcode_latchFingerprint : (s.latchFingerprint full r g b).errcode = s.errcode := by
  simp [State.latchFingerprint]
@[simp] theorem State.sv_latchFingerprint : (s.latchFingerprint full r g b).sv = 0b1111 := by
  simp [State.latchFingerprint]

theorem State.responses_latchFingerprint : (s.latchFingerprint full r g b).responses =
    s.responses ++ List.replicate (full.length + r.length + g.length + b.length + 13) 0x0000 := by
  rw [show full.length + r.length + g.length + b.length + 13 =
    1 + (full.length + 3) + (r.length + 3) + (g.length + 3) + (b.length + 3) by omega]
  simp only [State.latchFingerprint, State.responses_latchMessage, State.responses_respond,
    State.responses_clearSlots, List.replicate_add _ _ (0x0000 : RspWord), List.append_assoc]
  rfl

theorem execAll_fprintCommands (k : BitVec 1) : execAll (fprintCommands k full r g b) s =
    .next (((s.latchFingerprint full r g b).makeComposite k).respond 0x0000) := by
  simp only [fprintCommands, List.append_assoc, List.cons_append, List.nil_append]
  rw [execAll_cons (exec_fstart s), execAll_hash_latch, execAll_hash_latch, execAll_hash_latch, execAll_hash_latch]
  exact execAll_cons (exec_fcomp_ok (by simp) (s.sv_latchFingerprint full r g b) k)

variable {s}

theorem State.wf_latchFingerprint (h : s.buf.wf = true) : (s.latchFingerprint full r g b).buf.wf = true :=
  State.wf_latchMessage (State.wf_latchMessage (State.wf_latchMessage (State.wf_latchMessage
    (by simpa using h) 0 full) 1 r) 2 g) 3 b

/-- The text of the slots is the four digests in order: each latch writes its own slot and keeps the others. -/
theorem State.slotText_latchFingerprint (h : s.buf.wf = true) : (s.latchFingerprint full r g b).slotText =
    hash config.pIV full ++ hash config.pIV r ++ hash config.pIV g ++ hash config.pIV b := by
  have h0 : (s.clearSlots.respond 0x0000).buf.wf = true := by simpa using h
  have h1 := State.wf_latchMessage h0 0 full
  have h2 := State.wf_latchMessage h1 1 r
  have h3 := State.wf_latchMessage h2 2 g
  simp only [State.slotText, State.latchFingerprint, State.slotAt_latchMessage h3, State.slotAt_latchMessage h2,
    State.slotAt_latchMessage h1, State.slotAt_latchMessage h0, BitVec.reduceEq, if_true, if_false, hash]

end

/-- Settles O37: the composite is that of the four digests just latched. (The bound on the lengths is not needed: `hashState`
is total, log 10.) -/
theorem fprintMakesFingerprint : Obligations.FprintMakesFingerprint := by
  intro s k full r g b hwf _ _ _ _
  have hcomp : ((s.latchFingerprint full r g b).makeComposite k).compAt k = hashState config.pIV
      (hash config.pIV full ++ hash config.pIV r ++ hash config.pIV g ++ hash config.pIV b) := by
    rw [State.compAt_makeComposite, if_pos rfl, State.h_hashedSlots (State.wf_latchFingerprint full r g b hwf),
      State.slotText_latchFingerprint full r g b hwf]
  refine ⟨_, execAll_fprintCommands s full r g b k, ?_, ?_, ?_, ?_, ?_⟩
  · rw [State.compAt_respond, hcomp]
  · rw [State.compAt_respond, hcomp]
    rfl
  · simp [State.compValid_makeComposite]
  · simp [State.makeComposite_eq, SameErrors]
  · simp [State.makeComposite_eq, State.responses_latchFingerprint, List.replicate_succ']

end Sys2Proof.Machine
end

section
/-! Proofs/Comparator.lean: the verdict as text equality (R215), and CMP and VRDS, which answer it and change nothing else
(R216, R217, R219). -/

namespace Sys2Proof.Machine

/-! ### The verdict (R215) -/

section
variable (s : State)

theorem State.verdict_eq_notTampered_iff : s.verdict = .notTampered ↔ s.compAt 0 = s.compAt 1 :=
  Ne.ite_eq_left_iff (by decide)

/-- What is read off the verdict is read off the equality of the two registers. -/
theorem State.apply_verdict {α : Type} (f : TamperVerdict → α) :
    f s.verdict = if s.compAt 0 = s.compAt 1 then f .notTampered else f .tampered :=
  apply_ite f ..

end

/-- Settles O42: equal registers are equal texts, since a text fixes its words (R184). -/
theorem verdictIsTextEquality : Obligations.VerdictIsTextEquality := by
  intro s a b ha hb
  have htext : a.composite = b.composite ↔ s.compAt 0 = s.compAt 1 := by
    rw [ha, hb]
    exact hexTextIsInjective _ _
  refine ⟨if_congr htext.symm rfl rfl, ?_, s.verdict_eq_notTampered_iff⟩
  rw [htext, s.verdict_eq_notTampered_iff]

/-! ### CMP (R216) -/

/-- Settles O39: a response alone, the verdict's code. -/
theorem cmpGivesVerdictBit : Obligations.CmpGivesVerdictBit := by
  refine ⟨rfl, fun s hcv => ⟨_, exec_cmp_refused hcv, s.refusedWith_refuse notValid⟩,
    fun s hcv => ⟨_, exec_cmp_ok hcv, ?_⟩⟩
  rw [s.apply_verdict TamperVerdict.code]
  exact s.onlyAnswers_respond _

/-! ### VRDS (R217, R219) -/

theorem decode_vrds : ∀ j : BitVec 5, decode (0x9000 + j.setWidth 16) = .ok (.vrds j) := by decide

/-- A character of the verdict's text, as wide as a response: 0 past the end stays 0. -/
theorem TamperVerdict.setWidth_getD_text (v : TamperVerdict) (j : Nat) :
    (v.text.getD j 0x00).setWidth 16 = (v.text.map (·.setWidth 16)).getD j (0x0000 : RspWord) :=
  (List.getD_map ..).symm

/-- Settles O40: a response alone, the character of the text of the verdict that the registers give. -/
theorem vrdsReadsVerdictText : Obligations.VrdsReadsVerdictText := by
  refine ⟨decode_vrds, fun s j hcv => ⟨_, exec_vrds_refused hcv j, s.refusedWith_refuse notValid⟩,
    fun s j hcv => ⟨_, exec_vrds_ok hcv j, ?_⟩⟩
  rw [TamperVerdict.setWidth_getD_text,
    s.apply_verdict fun v => (v.text.map (·.setWidth 16)).getD j.toNat (0x0000 : RspWord)]
  exact s.onlyAnswers_respond _

end Sys2Proof.Machine
end

section
/-! Proofs/System.lean: NOP and STAT, which answer and change nothing else (R230, R232), and the status bytes as numbers
(R34). -/

namespace Sys2Proof.Machine

/-- Settles O43: a response alone. -/
theorem nopOnlyAnswers : Obligations.NopOnlyAnswers :=
  ⟨rfl, fun s => ⟨_, exec_nop s, s.onlyAnswers_respond _⟩⟩

/-! ### The status bytes as numbers (R34) -/

/-- A field placed above `v` lower bits counts for `2 ^ v` times its value. -/
theorem toNat_append_eq_add {u v : Nat} (x : BitVec u) (y : BitVec v) :
    (x ++ y).toNat = x.toNat * 2 ^ v + y.toNat := by
  rw [BitVec.toNat_append, ← Nat.shiftLeft_add_eq_or_of_lt y.isLt, Nat.shiftLeft_eq]

section
variable (s : State)

theorem State.toNat_statusByte : s.statusByte.toNat = s.ph.code.toNat + 4 * s.err.toNat + 8 * s.ovf.toNat := by
  simp only [State.statusByte, toNat_append_eq_add, BitVec.toNat_ofBool, BitVec.toNat_ofNat]
  omega

theorem State.toNat_validByte : s.validByte.toNat = s.sv.toNat + 16 * s.cv.toNat := by
  simp only [State.validByte, toNat_append_eq_add, BitVec.toNat_ofNat]
  omega

theorem State.toNat_fillByte : s.fillByte.toNat = s.n.toNat := by
  simp only [State.fillByte, toNat_append_eq_add, BitVec.toNat_ofNat]
  omega

end

/-! ### STAT (R232) -/

theorem decode_stat : ∀ r : BitVec 2, decode (0xa000 + 256 * r.setWidth 16) = .ok (.stat r) := by decide

/-- Settles O44: a response alone, the status byte that the selector names. -/
theorem statReadsStatusBytes : Obligations.StatReadsStatusBytes := by
  refine ⟨decode_stat, fun s r => ⟨_, _, exec_stat r s, s.onlyAnswers_respond _, ?_⟩⟩
  rw [BitVec.toNat_setWidth_of_le (by decide)]
  match r with
  | 0 => exact s.toNat_statusByte
  | 1 => rfl
  | 2 => exact s.toNat_validByte
  | 3 => exact s.toNat_fillByte

end Sys2Proof.Machine
end

section
/-! Proofs/Refusals.lean: a command word is refused exactly where the table of R246 names a cause: a word that is not
reserved decodes, and a decoded command is refused with the code of the table and executed where it names none (R247 to
R251). -/

namespace Sys2Proof.Machine

/-! ### Words that are not reserved (R86, R87) -/

theorem cmdWord_fields (w : CmdWord) : cmdWord (opField w) (selField w) (immField w) = w := by
  have hupper : opField w ++ selField w = w.extractLsb' 8 8 :=
    BitVec.extractLsb'_append_extractLsb'_eq_extractLsb' (by decide)
  have hwhole : w.extractLsb' 8 8 ++ immField w = w.extractLsb' 0 16 :=
    BitVec.extractLsb'_append_extractLsb'_eq_extractLsb' (by decide)
  rw [cmdWord, hupper, hwhole]
  exact BitVec.extractLsb'_eq_self

/-- A word in its fields is the sum that the `decode_` lemmas of the commands speak of. -/
theorem cmdWord_eq_add (op sel : BitVec 4) (imm : BitVec 8) :
    cmdWord op sel imm = 4096 * op.setWidth 16 + 256 * sel.setWidth 16 + imm.setWidth 16 := by
  have := toNat_cmdWord op sel imm
  bv_omega

/-- The kinds of opcodes that R87 tells apart: unassigned, those of a command without operands, and each of the others. -/
theorem opcode_cases : ∀ op : BitVec 4, (0xb ≤ op.toNat ∧ op.toNat ≤ 0xe) ∨
    (op = 0x0 ∨ op = 0x1 ∨ op = 0x3 ∨ op = 0x5 ∨ op = 0x8 ∨ op = 0xf) ∨ op = 0x2 ∨ op = 0x4 ∨ op = 0x6 ∨ op = 0x7 ∨
      op = 0x9 ∨ op = 0xa := by decide

/-- Outside the reserved words each opcode's fields hold the operands of its command and nothing more. -/
theorem exists_decode_of_not_specReserved {w : CmdWord} (h : ¬ SpecReserved w) : ∃ i, decode w = .ok i := by
  rw [← cmdWord_fields w] at h ⊢
  generalize opField w = op, selField w = sel, immField w = imm at h ⊢
  simp only [SpecReserved, toNat_op_cmdWord, toNat_sel_cmdWord, toNat_imm_cmdWord] at h
  rw [cmdWord_eq_add]
  obtain hop | hop | hop | hop | hop | hop | hop | hop := opcode_cases op
  · exact absurd (.inl hop) h
  · obtain ⟨rfl, rfl⟩ : sel = 0 ∧ imm = 0 := by bv_omega
    obtain rfl | rfl | rfl | rfl | rfl | rfl := hop <;> exact ⟨_, rfl⟩
  · exact ⟨_, (congrArg decode (by bv_omega)).trans (decode_hpush imm)⟩
  · exact ⟨_, (congrArg decode (by bv_omega)).trans (decode_rdx (sel.setWidth 3) (imm.setWidth 7) (by bv_omega))⟩
  · exact ⟨_, (congrArg decode (by bv_omega)).trans (decode_flatch (sel.setWidth 2))⟩
  · exact ⟨_, (congrArg decode (by bv_omega)).trans (decode_fcomp (sel.setWidth 1))⟩
  · exact ⟨_, (congrArg decode (by bv_omega)).trans (decode_vrds (imm.setWidth 5))⟩
  · exact ⟨_, (congrArg decode (by bv_omega)).trans (decode_stat (sel.setWidth 2))⟩

/-! ### The table of causes (R246, R251) -/

section
variable (s : State)

theorem refusalCode_rdx_slot (c : BitVec 2) (j : BitVec 7) :
    refusalCode s (.rdx (c.setWidth 3) j) = if s.sv.getLsbD c.toNat then none else some notValid := by
  have hc : (c.setWidth 3).toNat = c.toNat := BitVec.toNat_setWidth_of_le (by decide)
  have hle : c.toNat ≤ 3 := by omega
  simp only [refusalCode, hc, if_pos hle, notValid]

theorem refusalCode_rdx_comp (k : BitVec 1) (j : BitVec 7) :
    refusalCode s (.rdx (4 + k.setWidth 3) j) = if s.cv.getLsbD k.toNat then none else some notValid := by
  have hk : (4 + k.setWidth 3).toNat = 4 + k.toNat := by bv_omega
  have hgt : ¬ 4 + k.toNat ≤ 3 := by omega
  have hle : 4 + k.toNat ≤ 5 := by omega
  simp only [refusalCode, hk, if_neg hgt, if_pos hle, Nat.add_sub_cancel_left, notValid]

/-- The kinds of sources that R185 lists, and source 7, which is none. -/
theorem rdxSource_cases : ∀ src : BitVec 3,
    (∃ c : BitVec 2, src = c.setWidth 3) ∨ (∃ k : BitVec 1, src = 4 + k.setWidth 3) ∨ src = 6 ∨ src = 7 := by decide

/-- The table refuses RDX exactly where its source has nothing to read. -/
theorem refusalCode_rdx_eq_some_iff (src : BitVec 3) (j : BitVec 7) (code : BitVec 8) :
    refusalCode s (.rdx src j) = some code ↔ s.digestSource src = .error code := by
  obtain ⟨c, rfl⟩ | ⟨k, rfl⟩ | rfl | rfl := rdxSource_cases src
  · rw [refusalCode_rdx_slot, State.digestSource_slot]
    split <;> simp
  · rw [refusalCode_rdx_comp, State.digestSource_comp]
    split <;> simp
  · rw [State.digestSource_hash]
    by_cases h : s.ph = .done <;> simp [refusalCode, h, phaseError]
  · simp [refusalCode, State.digestSource, illegalCommand]

end

/-! ### Every command -/

/-- The command is refused with the code of the table, or executed where the table names none: bit 15 of its response is
then clear, and only RST touches `ERR` and `ERRCODE`. -/
def FollowsTable (i : Instr) (s : State) : Prop :=
  ∃ t, exec i s = .next t ∧
    match refusalCode s i with
    | some code => RefusedWith s t code
    | none => ∃ r, Answers s t r ∧ r.getLsbD 15 = false ∧ (i ≠ .rst → SameErrors s t)

section
variable {i : Instr} {s : State}

theorem FollowsTable.refused {code : BitVec 8} (hcode : refusalCode s i = some code)
    (h : exec i s = .next (s.refuse code)) : FollowsTable i s := by
  refine ⟨_, h, ?_⟩
  rw [hcode]
  exact s.refusedWith_refuse code

theorem FollowsTable.executed {u : State} {r : RspWord} (hcode : refusalCode s i = none)
    (h : exec i s = .next (u.respond r)) (hu : u.responses = s.responses ∧ u.host = s.host) (hr : r.getLsbD 15 = false)
    (herrors : i ≠ .rst → SameErrors s u) : FollowsTable i s := by
  obtain ⟨hresponses, hhost⟩ := hu
  refine ⟨_, h, ?_⟩
  rw [hcode]
  refine ⟨r, ⟨?_, ?_⟩, hr, herrors⟩
  · rw [State.responses_respond, hresponses]
  · rw [State.host_respond, hhost]

end

/-- The condition that decides each command is the one the table names for it. -/
theorem exec_followsTable (i : Instr) (s : State) : FollowsTable i s := by
  cases i with
  | nop => exact .executed rfl (exec_nop s) ⟨rfl, rfl⟩ rfl fun _ => ⟨rfl, rfl⟩
  | hinit => exact .executed rfl (exec_hinit s) ⟨rfl, rfl⟩ rfl fun _ => ⟨rfl, rfl⟩
  | hpush b =>
    by_cases h : s.ph = .absorb
    · exact .executed (if_pos h) (exec_hpush_open h b) (by simp) rfl (by simp [SameErrors])
    · exact .refused (if_neg h) (exec_hpush_refused h b)
  | hfin =>
    by_cases h : s.ph = .absorb
    · exact .executed (if_pos h) (exec_hfin_open h) (by simp) rfl (by simp [SameErrors])
    · exact .refused (if_neg h) (exec_hfin_refused h)
  | rdx src j =>
    cases h : s.digestSource src with
    | ok x =>
      have hnone : refusalCode s (.rdx src j) = none := by
        simp [Option.eq_none_iff_forall_ne_some, refusalCode_rdx_eq_some_iff, h]
      exact .executed hnone (exec_rdx_ok h j) ⟨rfl, rfl⟩ (by simp) fun _ => ⟨rfl, rfl⟩
    | error code => exact .refused ((refusalCode_rdx_eq_some_iff s src j code).2 h) (exec_rdx_refused h j)
  | fstart => exact .executed rfl (exec_fstart s) ⟨rfl, rfl⟩ rfl fun _ => ⟨rfl, rfl⟩
  | flatch c =>
    by_cases h : s.ph = .done
    · exact .executed (if_pos h) (exec_flatch_done h c) ⟨rfl, rfl⟩ rfl fun _ => ⟨rfl, rfl⟩
    · exact .refused (if_neg h) (exec_flatch_refused h c)
  | fcomp k =>
    by_cases h : s.ph = .absorb
    · exact .refused (if_pos h) (exec_fcomp_open h k)
    by_cases hs : s.sv = 0b1111
    · exact .executed ((if_neg h).trans (if_pos hs)) (exec_fcomp_ok h hs k) (by simp [State.makeComposite_eq]) rfl
        (by simp [SameErrors, State.makeComposite_eq])
    · exact .refused ((if_neg h).trans (if_neg hs)) (exec_fcomp_missing h hs k)
  | cmp =>
    by_cases h : s.cv = 0b11
    · exact .executed (if_pos h) (exec_cmp_ok h) ⟨rfl, rfl⟩ (by cases s.verdict <;> rfl) fun _ => ⟨rfl, rfl⟩
    · exact .refused (if_neg h) (exec_cmp_refused h)
  | vrds j =>
    by_cases h : s.cv = 0b11
    · exact .executed (if_pos h) (exec_vrds_ok h j) ⟨rfl, rfl⟩ (by simp) fun _ => ⟨rfl, rfl⟩
    · exact .refused (if_neg h) (exec_vrds_refused h j)
  | stat q => exact .executed rfl (exec_stat q s) ⟨rfl, rfl⟩ (by simp) fun _ => ⟨rfl, rfl⟩
  | rst => exact .executed rfl (exec_rst s) ⟨rfl, rfl⟩ rfl fun h => absurd rfl h

/-! ### The step -/

theorem step_of_decode_ok {s : State} {w : CmdWord} {rest : List HostEvent} {i : Instr}
    (hs : s.host = .cmd w :: rest) (hw : decode w = .ok i) : step s = exec i { s with host := rest } := by
  simp only [step, hs, hw, State.takeEvent_of_host hs]

/-- Settles O18: a reserved word is refused by O5, any other decodes to a command that follows the table. -/
theorem refusalsAreExactlyThese : Obligations.RefusalsAreExactlyThese := by
  intro s w rest hs
  by_cases hw : SpecReserved w
  · obtain ⟨t, hstep, hrefused, -⟩ := reservedWordIsRefused s w rest hs hw
    exact ⟨t, hstep, fun _ => hrefused, absurd hw⟩
  · obtain ⟨i, hi⟩ := exists_decode_of_not_specReserved hw
    obtain ⟨t, hexec, htable⟩ := exec_followsTable i { s with host := rest }
    exact ⟨t, (step_of_decode_ok hs hi).trans hexec, fun h => absurd h hw, fun _ => ⟨i, hi, htable⟩⟩

end Sys2Proof.Machine
end

section
/-! Proofs/ResetEvents.lean: the step on a reset event, between commands or inside one (R281, R283). -/

namespace Sys2Proof.Machine

theorem step_of_reset {s : State} {e : HostEvent} {rest : List HostEvent} (hs : s.host = e :: rest)
    (he : e = .reset ∨ ∃ w, e = .cmdAbandoned w) : step s = .next ({ s with host := rest } : State).resetEvent := by
  rcases he with rfl | ⟨w, rfl⟩ <;> simp only [step, hs, State.takeEvent_of_host hs]

/-- Settles O2: the step is `resetEvent` on the state with the action taken, whose registers its own lemmas give. -/
theorem resetEventAbandonsCommand : Obligations.ResetEventAbandonsCommand := fun s _ rest hs he =>
  ⟨({ s with host := rest } : State).resetEvent, step_of_reset hs he, State.ph_resetEvent _, State.n_resetEvent _,
    State.err_resetEvent _, State.errcode_resetEvent _, State.ovf_resetEvent _, State.sv_resetEvent _,
    State.cv_resetEvent _, State.responses_resetEvent _, State.host_resetEvent _⟩

end Sys2Proof.Machine
end

section
/-! Proofs/Encoding.lean: the words of the commands and the rows of the opcode map (R81 to R87), each the inverse of the
other. -/

namespace Sys2Proof.Machine

/-! ### Decoding the word of a command (R83, R85) -/

/-- A command's word is its opcode and its operands added up, the form of the word in the `decode_` lemmas. -/
theorem decode_encode {i : Instr} (h : i.WellFormed) : decode (encode i) = .ok i := by
  cases i with
  | nop | hinit | hfin | fstart | cmp | rst => rfl
  | hpush b => rw [encode, cmdWord_eq_add]; exact decode_hpush b
  | rdx src j =>
    have hsrc : src ≠ 7 := bne_iff_ne.1 h
    rw [encode, cmdWord_eq_add, ← decode_rdx src j hsrc]
    exact congrArg decode (by bv_omega)
  | flatch c => rw [encode, cmdWord_eq_add, ← decode_flatch c]; exact congrArg decode (by bv_omega)
  | fcomp k => rw [encode, cmdWord_eq_add, ← decode_fcomp k]; exact congrArg decode (by bv_omega)
  | vrds j => rw [encode, cmdWord_eq_add, ← decode_vrds j]; exact congrArg decode (by bv_omega)
  | stat r => rw [encode, cmdWord_eq_add, ← decode_stat r]; exact congrArg decode (by bv_omega)

/-- Settles O12: `decode_encode`, by the decoding of each opcode's words. -/
theorem decodeInvertsEncode : Obligations.DecodeInvertsEncode := fun _ => decode_encode

/-- Settles O13: the row that a word selects gives the word back from its operands. -/
theorem encodeInvertsDecode : Obligations.EncodeInvertsDecode := fun _ _ => wellFormed_and_encode_of_decode

/-- Settles O14: a reserved word has no command, and any other word decodes to a well-formed one. -/
theorem everyWordIsOneCommandOrReserved : Obligations.EveryWordIsOneCommandOrReserved := by
  intro w
  by_cases hw : SpecReserved w
  · exact .inl ⟨hw, decode_eq_error_of_specReserved hw⟩
  · obtain ⟨i, hi⟩ := exists_decode_of_not_specReserved hw
    exact .inr ⟨hw, i, hi, (wellFormed_and_encode_of_decode hi).1⟩

/-- Settles O16: each word is decoded. -/
theorem specWordsDecode : Obligations.SpecWordsDecode :=
  ⟨rfl, rfl, rfl, rfl, rfl, rfl, rfl, rfl, rfl⟩

/-! ### The rows of the opcode map (R86) -/

/-- The bits that both rows fix hold the pattern of each row in a word that selects both. -/
theorem OpcodeRow.pattern_and_mask_eq_of_selects {a b : OpcodeRow} {w : CmdWord} (ha : a.selects w = true)
    (hb : b.selects w = true) : a.pattern &&& b.mask = b.pattern &&& a.mask := by
  rw [← beq_iff_eq.1 ha, ← beq_iff_eq.1 hb, BitVec.and_assoc, BitVec.and_assoc, BitVec.and_comm a.mask]

/-- Settles O15: any two rows differ in a bit that both fix. -/
theorem opcodeRowsAreDisjoint : Obligations.OpcodeRowsAreDisjoint := by
  have hdiffer : opcodeRows.Pairwise fun a b => a.pattern &&& b.mask ≠ b.pattern &&& a.mask := by decide
  exact hdiffer.imp fun hab w ⟨ha, hb⟩ => hab (OpcodeRow.pattern_and_mask_eq_of_selects ha hb)

end Sys2Proof.Machine
end

section
/-! Proofs/Effects.lean: every command is a refusal where the table of R246 names a code, and elsewhere one effect and one
response (R70, R247); and what each action of the host makes the step do (R70, R80, R281). -/

namespace Sys2Proof.Machine

/-! ### An executed command (R89, R111 to R234) -/

/-- What a command writes when it is executed, its response aside. -/
def State.effect (s : State) : Instr → State
  | .hinit => s.openMessage
  | .hpush b => s.pushByte b
  | .hfin => s.closeMessage
  | .fstart => s.clearSlots
  | .flatch c => s.latch c
  | .fcomp k => s.makeComposite k
  | .rst => s.resetControl
  | .nop | .rdx _ _ | .cmp | .vrds _ | .stat _ => s

/-- What a command answers when it is executed. (RDX of a source that cannot be read is refused, so it answers no 0.) -/
def State.answer (s : State) : Instr → RspWord
  | .rdx src j =>
    match s.digestSource src with
    | .ok x => ((hex512 x).getD j.toNat 0).setWidth 16
    | .error _ => 0x0000
  | .cmp => s.verdict.code
  | .vrds j => (s.verdict.text.getD j.toNat 0x00).setWidth 16
  | .stat r => (s.statByte r).setWidth 16
  | .nop | .hinit | .hpush _ | .hfin | .fstart | .flatch _ | .fcomp _ | .rst => 0x0000

/-- The state a command leaves: refused with the code of the table, executed where the table names none. -/
def State.outcome (s : State) (i : Instr) : State :=
  match refusalCode s i with
  | some code => s.refuse code
  | none => (s.effect i).respond (s.answer i)

section
variable {s : State} {i : Instr}

theorem State.outcome_of_some {code : BitVec 8} (h : refusalCode s i = some code) : s.outcome i = s.refuse code := by
  rw [State.outcome, h]

theorem State.outcome_of_none (h : refusalCode s i = none) : s.outcome i = (s.effect i).respond (s.answer i) := by
  rw [State.outcome, h]

/-! ### When the table names no code (R246) -/

@[simp] theorem refusalCode_hpush_eq_none_iff {b : Byte} : refusalCode s (.hpush b) = none ↔ s.ph = .absorb := by
  simp [refusalCode]

@[simp] theorem refusalCode_hfin_eq_none_iff : refusalCode s .hfin = none ↔ s.ph = .absorb := by
  simp [refusalCode]

@[simp] theorem refusalCode_rdx_eq_none_iff {src : BitVec 3} {j : BitVec 7} :
    refusalCode s (.rdx src j) = none ↔ ∃ x, s.digestSource src = .ok x := by
  simp only [Option.eq_none_iff_forall_ne_some, ne_eq, refusalCode_rdx_eq_some_iff]
  cases s.digestSource src <;> simp

@[simp] theorem refusalCode_flatch_eq_none_iff {c : BitVec 2} : refusalCode s (.flatch c) = none ↔ s.ph = .done := by
  simp [refusalCode]

@[simp] theorem refusalCode_fcomp_eq_none_iff {k : BitVec 1} :
    refusalCode s (.fcomp k) = none ↔ s.ph ≠ .absorb ∧ s.sv = 0b1111 := by
  by_cases h : s.ph = .absorb <;> simp [refusalCode, h]

@[simp] theorem refusalCode_cmp_eq_none_iff : refusalCode s .cmp = none ↔ s.cv = 0b11 := by
  simp [refusalCode]

@[simp] theorem refusalCode_vrds_eq_none_iff {j : BitVec 5} : refusalCode s (.vrds j) = none ↔ s.cv = 0b11 := by
  simp [refusalCode]

end

/-! ### Every command -/

section
variable {i : Instr} {s : State}

theorem exec_eq_of_refused {code : BitVec 8} (hcode : refusalCode s i = some code)
    (h : exec i s = .next (s.refuse code)) : exec i s = .next (s.outcome i) := by
  rw [h, State.outcome_of_some hcode]

theorem exec_eq_of_executed (hcode : refusalCode s i = none)
    (h : exec i s = .next ((s.effect i).respond (s.answer i))) : exec i s = .next (s.outcome i) := by
  rw [h, State.outcome_of_none hcode]

end

/-- The condition that decides each command is the table's. -/
theorem exec_eq (i : Instr) (s : State) : exec i s = .next (s.outcome i) := by
  cases i with
  | nop | hinit | fstart | stat | rst => rfl
  | hpush b =>
    by_cases h : s.ph = .absorb
    · exact exec_eq_of_executed (if_pos h) (exec_hpush_open h b)
    · exact exec_eq_of_refused (if_neg h) (exec_hpush_refused h b)
  | hfin =>
    by_cases h : s.ph = .absorb
    · exact exec_eq_of_executed (if_pos h) (exec_hfin_open h)
    · exact exec_eq_of_refused (if_neg h) (exec_hfin_refused h)
  | rdx src j =>
    cases h : s.digestSource src with
    | ok x =>
      have hanswer : s.answer (.rdx src j) = ((hex512 x).getD j.toNat 0).setWidth 16 := by rw [State.answer, h]
      exact exec_eq_of_executed (refusalCode_rdx_eq_none_iff.2 ⟨x, h⟩) (hanswer ▸ exec_rdx_ok h j)
    | error code => exact exec_eq_of_refused ((refusalCode_rdx_eq_some_iff s src j code).2 h) (exec_rdx_refused h j)
  | flatch c =>
    by_cases h : s.ph = .done
    · exact exec_eq_of_executed (if_pos h) (exec_flatch_done h c)
    · exact exec_eq_of_refused (if_neg h) (exec_flatch_refused h c)
  | fcomp k =>
    by_cases h : s.ph = .absorb
    · exact exec_eq_of_refused (if_pos h) (exec_fcomp_open h k)
    by_cases hs : s.sv = 0b1111
    · exact exec_eq_of_executed ((if_neg h).trans (if_pos hs)) (exec_fcomp_ok h hs k)
    · exact exec_eq_of_refused ((if_neg h).trans (if_neg hs)) (exec_fcomp_missing h hs k)
  | cmp =>
    by_cases h : s.cv = 0b11
    · exact exec_eq_of_executed (if_pos h) (exec_cmp_ok h)
    · exact exec_eq_of_refused (if_neg h) (exec_cmp_refused h)
  | vrds j =>
    by_cases h : s.cv = 0b11
    · exact exec_eq_of_executed (if_pos h) (exec_vrds_ok h j)
    · exact exec_eq_of_refused (if_neg h) (exec_vrds_refused h j)

/-- What the refusals and the executed commands have in common holds of every command. -/
theorem exec_satisfies {i : Instr} {s : State} {P : State → Prop}
    (hrefused : ∀ code, refusalCode s i = some code → P (s.refuse code))
    (hexecuted : refusalCode s i = none → P ((s.effect i).respond (s.answer i))) : ∃ t, exec i s = .next t ∧ P t := by
  refine ⟨_, exec_eq i s, ?_⟩
  cases h : refusalCode s i with
  | some code => rw [State.outcome_of_some h]; exact hrefused code h
  | none => rw [State.outcome_of_none h]; exact hexecuted h

/-! ### The step -/

/-- What the host's list makes the step do, the same from every state: wait, refuse a reserved word, execute a command, or
reset. -/
theorem step_cases (l : List HostEvent) :
    (∀ s : State, s.host = l → step s = .next s) ∨
    (∀ s : State, s.host = l → step s = .next s.takeEvent.refuseReserved) ∨
    (∃ i, ∀ s : State, s.host = l → step s = .next (s.takeEvent.outcome i)) ∨
    (∀ s : State, s.host = l → step s = .next s.takeEvent.resetEvent) := by
  cases l with
  | nil => exact .inl fun s hs => by rw [step, hs]
  | cons e rest =>
    cases e with
    | cmd w =>
      cases hw : decode w with
      | error e => exact .inr (.inl fun s hs => step_of_decode_error hs hw)
      | ok i =>
        refine .inr (.inr (.inl ⟨i, fun s hs => ?_⟩))
        rw [step_of_decode_ok hs hw, exec_eq, State.takeEvent_of_host hs]
    | reset => exact .inr (.inr (.inr fun s hs => by rw [step_of_reset hs (.inl rfl), State.takeEvent_of_host hs]))
    | cmdAbandoned w =>
      exact .inr (.inr (.inr fun s hs => by rw [step_of_reset hs (.inr ⟨w, rfl⟩), State.takeEvent_of_host hs]))

/-- Settles O6: with an empty list the step waits. -/
theorem engineWaitsForHost : Obligations.EngineWaitsForHost := fun s hs => by rw [step, hs]

/-- Settles O7: each case of the step answers a next state. -/
theorem everyStepCompletes : Obligations.EveryStepCompletes := by
  intro s
  obtain h | h | ⟨i, h⟩ | h := step_cases s.host <;> exact ⟨_, h s rfl⟩

/-- Settles O3: the step on a word that decodes. -/
theorem stepRunsDecodedCommand : Obligations.StepRunsDecodedCommand := fun _ _ _ _ => step_of_decode_ok

/-- Settles O4: the placed word decodes to its command, and taking it leaves the state as it was. -/
theorem placedWordIsExecuted : Obligations.PlacedWordIsExecuted := by
  intro s i hi
  have hword : BitVec.ofNat 16 (encode i).toNat = encode i := by simp
  have hhost : (s.withFetchWord 16 (encode i).toNat).host = .cmd (encode i) :: s.host := by
    rw [State.withFetchWord, hword, State.host_offer]
  exact step_of_decode_ok hhost (decode_encode hi)

end Sys2Proof.Machine
end

section
/-! Proofs/Frames.lean: what each command leaves alone: the registers that the access table gives it no "w" for (R46), the
sticky flags (R31, R35, R39), and the transient registers (log 5); and RST, which alone clears the flags (R234). -/

namespace Sys2Proof.Machine

/-! ### The access table (R46) -/

section
variable (s : State) (k : BitVec 1)

@[simp] theorem State.err_makeComposite : (s.makeComposite k).err = s.err := by simp [State.makeComposite_eq]
@[simp] theorem State.errcode_makeComposite : (s.makeComposite k).errcode = s.errcode := by
  simp [State.makeComposite_eq]
@[simp] theorem State.slot_makeComposite : (s.makeComposite k).slot = s.slot := by simp [State.makeComposite_eq]
@[simp] theorem State.host_makeComposite : (s.makeComposite k).host = s.host := by simp [State.makeComposite_eq]
@[simp] theorem State.responses_makeComposite : (s.makeComposite k).responses = s.responses := by
  simp [State.makeComposite_eq]

end

/-- Only the registers in the list are written, and the host's later actions stay. -/
def WritesOnly (written : List Reg) (s t : State) : Prop :=
  (.hash ∉ written → t.h = s.h) ∧ (.buffer ∉ written → SameBytes s t) ∧
  (.fill ∉ written → t.n = s.n) ∧ (.length ∉ written → t.len = s.len) ∧
  (.overflow ∉ written → t.ovf = s.ovf) ∧ (.phase ∉ written → t.ph = s.ph) ∧
  (.slots ∉ written → t.slot = s.slot) ∧ (.slotValids ∉ written → t.sv = s.sv) ∧
  (.comps ∉ written → t.comp = s.comp) ∧ (.compValids ∉ written → t.cv = s.cv) ∧
  (.errors ∉ written → SameErrors s t) ∧ t.host = s.host

theorem State.writesOnly_refuse (s : State) (code : BitVec 8) : WritesOnly [.errors] s (s.refuse code) := by
  simp [WritesOnly, SameBytes]

/-- Each effect, command by command, against the command's row of the table. -/
theorem State.writesOnly_effect (s : State) (i : Instr) (r : RspWord) :
    WritesOnly (mayWrite i) s ((s.effect i).respond r) := by
  cases i <;> simp [WritesOnly, mayWrite, State.effect, SameBytes, SameErrors]

/-- Settles O22: a refusal writes the errors alone, an executed command what its row of the table marks. -/
theorem commandsWriteOnlyTheirRegisters : Obligations.CommandsWriteOnlyTheirRegisters := by
  intro i s
  refine exec_satisfies (P := WritesOnly (if refusalCode s i = none then mayWrite i else [.errors]) s)
    (fun code hcode => ?_) fun hcode => ?_
  · rw [hcode]
    exact s.writesOnly_refuse code
  · rw [hcode]
    exact s.writesOnly_effect i _

/-! ### The sticky flags (R31, R35, R39) -/

theorem State.sameErrors_effect (s : State) {i : Instr} (hi : i ≠ .rst) : SameErrors s (s.effect i) := by
  cases i with
  | rst => exact absurd rfl hi
  | _ => simp [SameErrors, State.effect]

theorem State.compValid_effect (s : State) {i : Instr} (hi : i ≠ .rst) {k : BitVec 1} (hk : s.compValid k = true) :
    (s.effect i).compValid k = true := by
  cases i with
  | rst => exact absurd rfl hi
  | fcomp d => simp [State.effect, State.compValid_makeComposite, hk]
  | _ => simpa [State.effect, State.compValid] using hk

/-- Settles O19: a refusal keeps an error code that is set, and no effect but RST's clears a flag. -/
theorem errorAndCompositeFlagsAreSticky : Obligations.ErrorAndCompositeFlagsAreSticky := by
  intro i s hi
  refine exec_satisfies (fun code _ => ⟨fun herr => ⟨rfl, ?_⟩, fun k hk => hk⟩) fun _ => ⟨fun herr => ?_, fun k hk => ?_⟩
  · rw [State.errcode_refuse, if_pos herr]
  · obtain ⟨hflag, hcode⟩ := s.sameErrors_effect hi
    exact ⟨hflag.trans herr, hcode⟩
  · exact s.compValid_effect hi hk

/-! ### Runs without RST (R297) -/

theorem getLsbD_errorWord : ∀ code : BitVec 8, (0x8000#16 + code.setWidth 16).getLsbD 15 = true := by decide

/-- The flag is clear after a command exactly when it was before and the response is no refusal. -/
theorem exec_err_eq_false_iff {i : Instr} (hi : i ≠ .rst) (s : State) : ∃ t r, exec i s = .next t ∧
    t.responses = s.responses ++ [r] ∧ (t.err = false ↔ s.err = false ∧ r.getLsbD 15 = false) := by
  obtain ⟨t, hexec, htable⟩ := exec_followsTable i s
  cases hcode : refusalCode s i with
  | some code =>
    rw [hcode] at htable
    obtain ⟨-, -, -, herr, -, hanswer, -⟩ := htable
    exact ⟨t, _, hexec, hanswer, by simp [herr, getLsbD_errorWord]⟩
  | none =>
    rw [hcode] at htable
    obtain ⟨r, ⟨hanswer, -⟩, hbit, herrors⟩ := htable
    exact ⟨t, r, hexec, hanswer, by rw [(herrors hi).1, and_iff_left hbit]⟩

theorem cleanResponses_cons {r : RspWord} {rs : List RspWord} :
    CleanResponses (r :: rs) ↔ r.getLsbD 15 = false ∧ CleanResponses rs := List.forall_mem_cons

theorem execAll_err_eq_false_iff {is : List Instr} (h : .rst ∉ is) (s : State) :
    ∃ t rs, execAll is s = .next t ∧ t.responses = s.responses ++ rs ∧ rs.length = is.length ∧
      (t.err = false ↔ s.err = false ∧ CleanResponses rs) := by
  induction is generalizing s with
  | nil => exact ⟨s, [], rfl, by simp, rfl, by simp [CleanResponses]⟩
  | cons i is ih =>
    obtain ⟨hi, his⟩ := not_or.1 (mt List.mem_cons.2 h)
    obtain ⟨u, r, hexec, hanswer, herr⟩ := exec_err_eq_false_iff (Ne.symm hi) s
    obtain ⟨t, rs, hrun, hanswers, hlength, herrs⟩ := ih his u
    refine ⟨t, r :: rs, (execAll_cons hexec).trans hrun, ?_, ?_, ?_⟩
    · rw [hanswers, hanswer, List.append_assoc, List.singleton_append]
    · rw [List.length_cons, List.length_cons, hlength]
    · rw [herrs, herr, cleanResponses_cons, and_assoc]

/-- Settles O20: along the commands, the flag stays clear exactly as long as the responses are clean. -/
theorem cleanRunHasNoError : Obligations.CleanRunHasNoError := by
  intro is s h herr
  obtain ⟨t, rs, hrun, hanswers, hlength, hiff⟩ := execAll_err_eq_false_iff h s
  exact ⟨t, rs, hrun, hanswers, hlength, by rw [hiff, and_iff_right herr]⟩

/-! ### The transient registers (log 5) -/

/-- A byte that leaves room in the block compresses nothing. -/
theorem State.sameTransients_absorb {s : State} (hn : s.n ≠ 127) (x : Byte) : SameTransients s (s.absorb x) := by
  rw [State.absorb, if_neg hn]
  exact ⟨rfl, rfl, rfl⟩

/-- Settles O58: the effects that compress a block are those of the listed cases, and no other writes the transients. -/
theorem transientsStayWithoutCompression : Obligations.TransientsStayWithoutCompression := by
  intro i s
  refine exec_satisfies (fun code _ => .inr ⟨rfl, rfl, rfl⟩) fun hcode => ?_
  cases i with
  | hpush b =>
    by_cases hn : s.n = 127
    · exact .inl ⟨refusalCode_hpush_eq_none_iff.1 hcode, hn⟩
    · exact .inr (State.sameTransients_absorb hn b)
  | hfin => exact .inl (refusalCode_hfin_eq_none_iff.1 hcode)
  | fcomp k => exact .inl (refusalCode_fcomp_eq_none_iff.1 hcode)
  | _ => exact .inr ⟨rfl, rfl, rfl⟩

/-! ### The control registers at reset and after RST (R45, R234) -/

/-- Settles O1: each control register, and the bytes made of them. -/
theorem resetLeavesControlZero : Obligations.ResetLeavesControlZero :=
  ⟨rfl, rfl, rfl, rfl, rfl, rfl, rfl, by decide⟩

/-- Settles O45: the writes of `resetControl` and a response. -/
theorem rstRestoresControl : Obligations.RstRestoresControl := by
  refine ⟨rfl, fun s => ⟨_, exec_rst s, ?_⟩⟩
  simp [SameTransients, SameBytes, Answers]

end Sys2Proof.Machine
end

section
/-! Proofs/Invariant.lean: the invariant holds at reset and every step keeps it (R35, R43). -/

namespace Sys2Proof.Machine

/-! ### The fill count and the length in an open message (R43) -/

/-- A byte pushed moves `N` and `LEN` together. -/
theorem toNat_add_eight_mod {len : BitVec 128} {n : BitVec 7} (h : len.toNat % 1024 = 8 * n.toNat) :
    (len + 8).toNat % 1024 = 8 * (n + 1).toNat := by
  rw [BitVec.toNat_add, BitVec.toNat_add]
  change (len.toNat + 8) % 2 ^ 128 % 1024 = 8 * ((n.toNat + 1) % 2 ^ 7)
  omega

theorem Phase.code_le (p : Phase) : p.code ≤ 2 := by cases p <;> decide

section
variable {s : State}

/-! ### What keeps the invariant -/

theorem State.Inv.takeEvent (h : s.Inv) : s.takeEvent.Inv := { h with }

theorem State.Inv.respond (h : s.Inv) (r : RspWord) : (s.respond r).Inv := { h with }

theorem State.Inv.clearSlots (h : s.Inv) : s.clearSlots.Inv := { h with }

theorem State.Inv.latch (h : s.Inv) (c : BitVec 2) : (s.latch c).Inv := { h with }

/-- The code recorded is the first, and no code of R246 is zero. -/
theorem State.Inv.refuse (h : s.Inv) {code : BitVec 8} (hcode : ErrorCode code) : (s.refuse code).Inv where
  __ := h
  errcodeZero := by
    have hne : code ≠ 0x00 := by obtain rfl | rfl | rfl := hcode <;> decide
    rw [State.err_refuse, State.errcode_refuse]
    cases herr : s.err with
    | true => simpa [herr] using h.errcodeZero
    | false => simpa using hne
  errcodeLegal := by
    rw [State.errcode_refuse]
    split
    · exact h.errcodeLegal
    · obtain rfl | rfl | rfl := hcode <;> decide

theorem State.Inv.openMessage (h : s.Inv) : s.openMessage.Inv where
  __ := h
  phaseLegal := Phase.code_le _
  idleEmpty _ := rfl
  doneEmpty _ := rfl
  openLength _ := rfl

theorem State.Inv.pushByte (h : s.Inv) (hph : s.ph = .absorb) (b : Byte) : (s.pushByte b).Inv where
  bufCanonical := by rw [State.buf_pushByte]; exact State.wf_absorb h.bufCanonical b
  phaseLegal := Phase.code_le _
  idleEmpty hidle := by simp [hph] at hidle
  doneEmpty hdone := by simp [hph] at hdone
  openLength _ := by rw [State.len_pushByte, State.n_pushByte]; exact toNat_add_eight_mod (h.openLength hph)
  errcodeZero := by simpa using h.errcodeZero
  errcodeLegal := by simpa using h.errcodeLegal

theorem State.Inv.closeMessage (h : s.Inv) : s.closeMessage.Inv where
  bufCanonical := State.wf_closeMessage h.bufCanonical
  phaseLegal := Phase.code_le _
  idleEmpty _ := s.n_closeMessage
  doneEmpty _ := s.n_closeMessage
  openLength hopen := by simp at hopen
  errcodeZero := by simpa using h.errcodeZero
  errcodeLegal := by simpa using h.errcodeLegal

theorem State.Inv.makeComposite (h : s.Inv) (k : BitVec 1) : (s.makeComposite k).Inv where
  bufCanonical := by rw [State.buf_makeComposite]; exact State.wf_hashedSlots h.bufCanonical
  phaseLegal := Phase.code_le _
  idleEmpty hidle := by simp at hidle
  doneEmpty _ := by simp [State.makeComposite_eq]
  openLength hopen := by simp at hopen
  errcodeZero := by simpa using h.errcodeZero
  errcodeLegal := by simpa using h.errcodeLegal

/-- The control registers at their reset values meet the invariant over any canonical buffer. -/
theorem State.inv_resetControl (h : s.buf.wf = true) : s.resetControl.Inv where
  bufCanonical := h
  phaseLegal := Phase.code_le _
  idleEmpty _ := rfl
  doneEmpty _ := rfl
  openLength hopen := by cases hopen
  errcodeZero := ⟨fun _ => rfl, fun _ => rfl⟩
  errcodeLegal := by rw [State.errcode_resetControl]; decide

theorem State.inv_resetEvent (s : State) : s.resetEvent.Inv :=
  { State.inv_resetControl (s := s.resetEvent) (Memory.wf_ofBytes _) with }

end

/-! ### Every command and every step -/

theorem errorCode_of_refusalCode {s : State} {i : Instr} {code : BitVec 8} (h : refusalCode s i = some code) :
    ErrorCode code := by
  unfold refusalCode at h
  repeat' split at h
  all_goals cases h
  all_goals simp [ErrorCode]

theorem State.Inv.outcome {s : State} (h : s.Inv) (i : Instr) : (s.outcome i).Inv := by
  cases hcode : refusalCode s i with
  | some code => rw [State.outcome_of_some hcode]; exact h.refuse (errorCode_of_refusalCode hcode)
  | none =>
    rw [State.outcome_of_none hcode]
    apply State.Inv.respond
    cases i with
    | hinit => exact h.openMessage
    | hpush b => exact h.pushByte (refusalCode_hpush_eq_none_iff.1 hcode) b
    | hfin => exact h.closeMessage
    | fstart => exact h.clearSlots
    | flatch c => exact h.latch c
    | fcomp k => exact h.makeComposite k
    | rst => exact State.inv_resetControl h.bufCanonical
    | nop | rdx | cmp | vrds | stat => exact h

/-- Settles O9: `State.reset` holds the control registers at their reset values and an empty buffer. -/
theorem invariantAtReset : Obligations.InvariantAtReset := State.inv_resetControl (s := State.reset) rfl

/-- Settles O10: in each case of the step, what it does keeps the invariant. -/
theorem stepKeepsInvariant : Obligations.StepKeepsInvariant := by
  intro s h
  obtain hstep | hstep | ⟨i, hstep⟩ | hstep := step_cases s.host
  · exact ⟨_, hstep s rfl, h⟩
  · exact ⟨_, hstep s rfl, h.takeEvent.refuse (.inl rfl)⟩
  · exact ⟨_, hstep s rfl, h.takeEvent.outcome i⟩
  · exact ⟨_, hstep s rfl, State.inv_resetEvent _⟩

end Sys2Proof.Machine
end

section
/-! Proofs/Noninterference.lean: states that agree on what is specified answer alike and agree after every step (R45, R120);
and the composite, which depends on the slots alone (R204). -/

namespace Sys2Proof.Machine

theorem State.slotText_congr {s s' : State} (h : ∀ c, s.slotAt c = s'.slotAt c) : s.slotText = s'.slotText := by
  simp only [State.slotText, h]

@[simp] theorem State.pending_pushByte (s : State) (b : Byte) : (s.pushByte b).pending = (s.absorb b).pending := by
  simp [State.pending, State.n_absorb]

/-- The open block holds the bytes below `N`. -/
theorem State.read_eq_of_pending_eq {s s' : State} (h : s.pending = s'.pending) {a : Nat} (ha : a < s.n.toNat) :
    s.buf.read a = s'.buf.read a := by
  have hfill : s.n.toNat = s'.n.toNat := by simpa using congrArg List.length h
  have hread := s.getElem?_pending ha
  rw [h, s'.getElem?_pending (hfill ▸ ha)] at hread
  exact (Option.some.inj hread).symm

/-! ### What two agreeing states have in common -/

section
variable {s s' : State} (h : Agree s s')
include h

theorem Agree.ph_eq : s.ph = s'.ph := by obtain ⟨hph, -⟩ := h.control; exact hph

theorem Agree.n_eq : s.n = s'.n := by obtain ⟨-, hn, -⟩ := h.control; exact hn

theorem Agree.err_eq : s.err = s'.err := by obtain ⟨-, -, herr, -⟩ := h.control; exact herr

theorem Agree.errcode_eq : s.errcode = s'.errcode := by obtain ⟨-, -, -, hcode, -⟩ := h.control; exact hcode

theorem Agree.ovf_eq : s.ovf = s'.ovf := by obtain ⟨-, -, -, -, hovf, -⟩ := h.control; exact hovf

theorem Agree.sv_eq : s.sv = s'.sv := by obtain ⟨-, -, -, -, -, hsv, -⟩ := h.control; exact hsv

theorem Agree.cv_eq : s.cv = s'.cv := by obtain ⟨-, -, -, -, -, -, hcv⟩ := h.control; exact hcv

/-- The bytes of an open block. -/
theorem Agree.pending_eq (hph : s.ph = .absorb) : s.pending = s'.pending := by
  rw [State.pending, State.pending, ← h.n_eq]
  exact List.map_congr_left fun a ha => h.bytes hph a (List.mem_range.1 ha)

/-- With a message open, absorbed bytes lead both to the same hash state and open block. -/
theorem Agree.stream_absorbAll_eq (hph : s.ph = .absorb) (bs : List Byte) :
    ((s.absorbAll bs).h, (s.absorbAll bs).pending) = ((s'.absorbAll bs).h, (s'.absorbAll bs).pending) := by
  obtain ⟨hwf, hwf'⟩ := h.canonical
  rw [State.stream_absorbAll hwf, State.stream_absorbAll hwf', h.hash (by simp [hph]), h.pending_eq hph]

theorem Agree.h_closeMessage_eq (hph : s.ph = .absorb) : s.closeMessage.h = s'.closeMessage.h := by
  rw [State.closeMessage_eq, State.closeMessage_eq, State.h_setPhase, State.h_setPhase, ← h.n_eq, ← h.length hph]
  exact congrArg Prod.fst (h.stream_absorbAll_eq hph _)

/-- With all slots valid both make the same composite. -/
theorem Agree.h_hashedSlots_eq (hsv : s.sv = 0b1111) : s.hashedSlots.h = s'.hashedSlots.h := by
  have hvalid (c : BitVec 2) : s.slotValid c = true := by
    rw [State.slotValid, hsv]
    revert c
    decide
  obtain ⟨hwf, hwf'⟩ := h.canonical
  rw [State.h_hashedSlots hwf, State.h_hashedSlots hwf', State.slotText_congr fun c => h.slots c (hvalid c)]

theorem Agree.digestSource_eq (src : BitVec 3) : s.digestSource src = s'.digestSource src := by
  obtain ⟨c, rfl⟩ | ⟨k, rfl⟩ | rfl | rfl := rdxSource_cases src
  · rw [State.digestSource_slot, State.digestSource_slot, ← h.sv_eq]
    split
    next hc => rw [h.slots c hc]
    next => rfl
  · rw [State.digestSource_comp, State.digestSource_comp, ← h.cv_eq]
    split
    next hk => rw [h.comps k hk]
    next => rfl
  · rw [State.digestSource_hash, State.digestSource_hash, ← h.ph_eq]
    split
    next hph => rw [h.hash (by simp [hph])]
    next => rfl
  · rfl

theorem Agree.verdict_eq (hcv : s.cv = 0b11) : s.verdict = s'.verdict := by
  have hvalid (k : BitVec 1) : s.compValid k = true := by
    rw [State.compValid, hcv]
    revert k
    decide
  rw [State.verdict, State.verdict, h.comps 0 (hvalid 0), h.comps 1 (hvalid 1)]

theorem Agree.statByte_eq (r : BitVec 2) : s.statByte r = s'.statByte r := by
  simp only [State.statByte, State.statusByte, State.validByte, State.fillByte, h.ph_eq, h.n_eq, h.err_eq,
    h.errcode_eq, h.ovf_eq, h.sv_eq, h.cv_eq]

theorem Agree.refusalCode_eq (i : Instr) : refusalCode s i = refusalCode s' i := by
  cases i <;> simp only [refusalCode, h.ph_eq, h.sv_eq, h.cv_eq]

/-- An executed command reads only what the two have in common. -/
theorem Agree.answer_eq {i : Instr} (hcode : refusalCode s i = none) : s.answer i = s'.answer i := by
  cases i with
  | rdx src j => rw [State.answer, State.answer, h.digestSource_eq]
  | cmp => rw [State.answer, State.answer, h.verdict_eq (refusalCode_cmp_eq_none_iff.1 hcode)]
  | vrds j => rw [State.answer, State.answer, h.verdict_eq (refusalCode_vrds_eq_none_iff.1 hcode)]
  | stat r => rw [State.answer, State.answer, h.statByte_eq]
  | nop | hinit | hpush | hfin | fstart | flatch | fcomp | rst => rfl

/-! ### What keeps the agreement -/

theorem Agree.takeEvent : Agree s.takeEvent s'.takeEvent where
  __ := h
  ports := by
    obtain ⟨hhost, hresponses⟩ := h.ports
    exact ⟨congrArg List.tail hhost, hresponses⟩

theorem Agree.respond (r : RspWord) : Agree (s.respond r) (s'.respond r) where
  __ := h
  ports := by
    obtain ⟨hhost, hresponses⟩ := h.ports
    exact ⟨hhost, by rw [State.responses_respond, State.responses_respond, hresponses]⟩

theorem Agree.noteError (code : BitVec 8) : Agree (s.noteError code) (s'.noteError code) where
  __ := h
  control := by simp [h.ph_eq, h.n_eq, h.err_eq, h.errcode_eq, h.ovf_eq, h.sv_eq, h.cv_eq]

theorem Agree.refuse (code : BitVec 8) : Agree (s.refuse code) (s'.refuse code) := (h.noteError code).respond _

theorem Agree.openMessage : Agree s.openMessage s'.openMessage where
  __ := h
  control := by simp [h.err_eq, h.errcode_eq, h.sv_eq, h.cv_eq]
  hash _ := rfl
  length _ := rfl
  bytes _ a ha := absurd ha (Nat.not_lt_zero a)

theorem Agree.pushByte (hph : s.ph = .absorb) (b : Byte) : Agree (s.pushByte b) (s'.pushByte b) where
  canonical := by
    obtain ⟨hwf, hwf'⟩ := h.canonical
    rw [State.buf_pushByte, State.buf_pushByte]
    exact ⟨State.wf_absorb hwf b, State.wf_absorb hwf' b⟩
  control := by simp [h.ph_eq, h.n_eq, h.err_eq, h.errcode_eq, h.ovf_eq, h.length hph, h.sv_eq, h.cv_eq]
  ports := by simpa using h.ports
  hash _ := by
    rw [State.h_pushByte, State.h_pushByte]
    exact congrArg Prod.fst (h.stream_absorbAll_eq hph [b])
  length _ := by rw [State.len_pushByte, State.len_pushByte, h.length hph]
  bytes _ a ha := by
    refine State.read_eq_of_pending_eq ?_ ha
    rw [State.pending_pushByte, State.pending_pushByte]
    exact congrArg Prod.snd (h.stream_absorbAll_eq hph [b])
  slots := by simpa [State.slotValid, State.slotAt] using h.slots
  comps := by simpa [State.compValid, State.compAt] using h.comps

theorem Agree.closeMessage (hph : s.ph = .absorb) : Agree s.closeMessage s'.closeMessage where
  canonical := by
    obtain ⟨hwf, hwf'⟩ := h.canonical
    exact ⟨State.wf_closeMessage hwf, State.wf_closeMessage hwf'⟩
  control := by simp [h.err_eq, h.errcode_eq, h.ovf_eq, h.sv_eq, h.cv_eq]
  ports := by simpa using h.ports
  hash _ := h.h_closeMessage_eq hph
  length hopen := by simp at hopen
  bytes hopen := by simp at hopen
  slots := by simpa [State.slotValid, State.slotAt] using h.slots
  comps := by simpa [State.compValid, State.compAt] using h.comps

/-- With no slot valid there is no slot to agree on. -/
theorem Agree.clearSlots : Agree s.clearSlots s'.clearSlots where
  __ := h
  control := by simp [h.ph_eq, h.n_eq, h.err_eq, h.errcode_eq, h.ovf_eq, h.cv_eq]
  slots c hc := by simp [State.slotValid] at hc

theorem Agree.latch (hph : s.ph = .done) (c : BitVec 2) : Agree (s.latch c) (s'.latch c) where
  __ := h
  control := by simp [h.ph_eq, h.n_eq, h.err_eq, h.errcode_eq, h.ovf_eq, h.sv_eq, h.cv_eq]
  slots d hd := by
    rw [State.slotAt_latch, State.slotAt_latch, h.hash (by simp [hph])]
    split
    next => rfl
    next hne =>
      rw [State.slotValid_latch, decide_eq_false hne, Bool.or_false] at hd
      exact h.slots d hd

theorem Agree.makeComposite (hsv : s.sv = 0b1111) (k : BitVec 1) : Agree (s.makeComposite k) (s'.makeComposite k) where
  canonical := by
    obtain ⟨hwf, hwf'⟩ := h.canonical
    rw [State.buf_makeComposite, State.buf_makeComposite]
    exact ⟨State.wf_hashedSlots hwf, State.wf_hashedSlots hwf'⟩
  control := by simp [State.makeComposite_eq, h.err_eq, h.errcode_eq, h.cv_eq]
  ports := by simpa using h.ports
  hash _ := by rw [State.h_makeComposite, State.h_makeComposite, h.h_hashedSlots_eq hsv]
  length hopen := by simp at hopen
  bytes hopen := by simp at hopen
  slots c hc := by simp [State.slotValid, State.makeComposite_eq] at hc
  comps d hd := by
    rw [State.compAt_makeComposite, State.compAt_makeComposite, h.h_hashedSlots_eq hsv]
    split
    next => rfl
    next hne =>
      rw [State.compValid_makeComposite, decide_eq_false hne, Bool.or_false] at hd
      exact h.comps d hd

end

/-- The control registers at their reset values leave the ports alone to agree on. -/
theorem agree_resetControl {s s' : State} (hwf : s.buf.wf = true ∧ s'.buf.wf = true)
    (hports : s.host = s'.host ∧ s.responses = s'.responses) : Agree s.resetControl s'.resetControl where
  canonical := hwf
  control := ⟨rfl, rfl, rfl, rfl, rfl, rfl, rfl⟩
  ports := hports
  hash hph := absurd rfl hph
  length hopen := by cases hopen
  bytes hopen := by cases hopen
  slots c hc := by simp [State.slotValid] at hc
  comps k hk := by simp [State.compValid] at hk

/-! ### Every command and every step -/

section
variable {s s' : State} (h : Agree s s')
include h

theorem Agree.resetEvent : Agree s.resetEvent s'.resetEvent :=
  { agree_resetControl (s := s.resetEvent) (s' := s'.resetEvent) ⟨Memory.wf_ofBytes _, Memory.wf_ofBytes _⟩ h.ports with }

theorem Agree.effect {i : Instr} (hcode : refusalCode s i = none) : Agree (s.effect i) (s'.effect i) := by
  cases i with
  | hinit => exact h.openMessage
  | hpush b => exact h.pushByte (refusalCode_hpush_eq_none_iff.1 hcode) b
  | hfin => exact h.closeMessage (refusalCode_hfin_eq_none_iff.1 hcode)
  | fstart => exact h.clearSlots
  | flatch c => exact h.latch (refusalCode_flatch_eq_none_iff.1 hcode) c
  | fcomp k =>
    obtain ⟨-, hsv⟩ := refusalCode_fcomp_eq_none_iff.1 hcode
    exact h.makeComposite hsv k
  | rst => exact agree_resetControl h.canonical h.ports
  | nop | rdx | cmp | vrds | stat => exact h

/-- Both refuse the command with the same code, or both execute it and answer alike. -/
theorem Agree.outcome (i : Instr) : Agree (s.outcome i) (s'.outcome i) := by
  have hcode' := h.refusalCode_eq i
  cases hcode : refusalCode s i with
  | some code =>
    rw [State.outcome_of_some hcode, State.outcome_of_some (hcode'.symm.trans hcode)]
    exact h.refuse code
  | none =>
    rw [State.outcome_of_none hcode, State.outcome_of_none (hcode'.symm.trans hcode), ← h.answer_eq hcode]
    exact (h.effect hcode).respond _

end

/-- Settles O11: the host's list is the same in both states, so both take the same case of the step, which keeps the
agreement. -/
theorem unspecifiedRegistersUnobservable : Obligations.UnspecifiedRegistersUnobservable := by
  intro s s' h
  obtain ⟨hhost, -⟩ := h.ports
  obtain hstep | hstep | ⟨i, hstep⟩ | hstep := step_cases s.host
  · exact ⟨_, _, hstep s rfl, hstep s' hhost.symm, h⟩
  · exact ⟨_, _, hstep s rfl, hstep s' hhost.symm, h.takeEvent.refuse _⟩
  · exact ⟨_, _, hstep s rfl, hstep s' hhost.symm, h.takeEvent.outcome i⟩
  · exact ⟨_, _, hstep s rfl, hstep s' hhost.symm, h.takeEvent.resetEvent⟩

/-! ### The composite -/

/-- Settles O38: both composites are the hash state of the four slots' text. -/
theorem sameSlotsGiveSameComposite : Obligations.SameSlotsGiveSameComposite := by
  intro s s' k k' hph hph' hsv hsv' hwf hwf' hslot
  have htext : s.slotText = s'.slotText := State.slotText_congr fun c => by simp only [State.slotAt, hslot]
  refine ⟨_, _, exec_fcomp_ok hph hsv k, exec_fcomp_ok hph' hsv' k', ?_⟩
  rw [State.compAt_respond, State.compAt_respond, State.compAt_makeComposite, State.compAt_makeComposite, if_pos rfl,
    if_pos rfl, State.h_hashedSlots hwf, State.h_hashedSlots hwf', htext]

end Sys2Proof.Machine
end

section
/-! Proofs/OpenMessage.lean: the open message and its bytes through HINIT, HPUSH and HFIN, and through the commands of
`HASH m` (R111 to R117, R158); and the bound of the padding loop (R296). -/

namespace Sys2Proof.Machine

/-! ### The padding loop (R116, R296) -/

/-- Fewer than 128 bytes bring the fill count to 112 exactly when they are as many as the loop appends. -/
theorem add_ofNat_eq_112_iff {n : BitVec 7} {j : Nat} (hj : j < 128) : n + BitVec.ofNat 7 j = 112 ↔ j = zerosNeeded n := by
  unfold zerosNeeded
  bv_omega

theorem State.n_absorbAll_zeros_eq_112_iff (s : State) {j : Nat} (hj : j < 128) :
    (s.absorbAll (List.replicate j 0x00)).n = 112 ↔ j = zerosNeeded s.n := by
  rw [State.n_absorbAll, List.length_replicate, add_ofNat_eq_112_iff hj]

/-- Settles O8: the loop appends `zerosNeeded` zeros, and no smaller number of them gives the fill count 112. -/
theorem paddingLoopStops : Obligations.PaddingLoopStops := by
  intro s
  have hle := zerosNeeded_le s.n
  have hloop := State.absorbZeros_eq 127 s hle
  refine ⟨zerosNeeded s.n, hle, hloop, ?_, fun j hj hfill => ?_⟩
  · rw [hloop, s.n_absorbAll_zeros_eq_112_iff (by omega)]
  · rw [s.n_absorbAll_zeros_eq_112_iff (by omega)] at hfill
    omega

/-! ### The open message as absorbed bytes (R117) -/

/-- The whole blocks of a byte stream are compressed, the rest waits. -/
theorem stream_nil_eq (iv : Words8) (m : List Byte) :
    stream (iv, []) m = ((blocks m).foldl compress iv, m.drop (128 * (m.length / 128))) :=
  stream_eq iv [] m (by simp)

/-- An open message is one whose bytes are absorbed, short enough for its length field. -/
theorem messageOpen_iff {s : State} {m : List Byte} : MessageOpen s m ↔
    s.ph = .absorb ∧ 8 * m.length < 2 ^ 128 ∧ s.ovf = false ∧ Absorbed config.pIV m s := by
  constructor
  · intro h
    refine ⟨h.isOpen, h.fits, h.noOverflow, h.bufCanonical, ?_, ?_⟩
    · rw [stream_nil_eq, h.hashed]
      refine Prod.ext rfl (List.ext_getElem? fun k => ?_)
      have hfill := h.fill
      rw [List.getElem?_drop]
      by_cases hk : k < m.length % 128
      · rw [State.getElem?_pending s (by omega), h.buffered k hk]
      · rw [List.getElem?_eq_none (by rw [State.length_pending]; omega), List.getElem?_eq_none (by omega)]
    · exact BitVec.eq_of_toNat_eq (by rw [h.length, BitVec.toNat_ofNat, Nat.mod_eq_of_lt h.fits])
  · rintro ⟨hph, hfits, hovf, h⟩
    have hstream := h.streamed
    rw [stream_nil_eq] at hstream
    refine ⟨hph, hfits, hovf, h.canonical, h.fill, ?_, congrArg Prod.fst hstream, fun k hk => ?_⟩
    · rw [h.length, BitVec.toNat_ofNat, Nat.mod_eq_of_lt hfits]
    · have hpending : s.pending = m.drop (128 * (m.length / 128)) := congrArg Prod.snd hstream
      rw [← s.getElem?_pending (by rwa [h.fill]), hpending, List.getElem?_drop]

/-! ### HINIT (R111) -/

theorem State.messageOpen_openMessage {s : State} (h : s.buf.wf = true) :
    MessageOpen (s.openMessage.respond 0x0000) [] :=
  messageOpen_iff.2 ⟨rfl, by simp, rfl, absorbed_openMessage h⟩

/-- Settles O27: HINIT opens a message with no byte absorbed. -/
theorem hinitStartsEmptyMessage : Obligations.HinitStartsEmptyMessage := fun s h =>
  ⟨_, exec_hinit s, State.messageOpen_openMessage h⟩

/-- Settles O57: HINIT loads `config.pIV`, which is that list. -/
theorem hinitLoadsInitialWords : Obligations.HinitLoadsInitialWords := fun s => ⟨_, exec_hinit s, rfl⟩

/-! ### HPUSH (R113) -/

/-- With room in the length field a pushed byte carries nothing out of it. -/
theorem MessageOpen.pushByte {s : State} {m : List Byte} (h : MessageOpen s m) (b : Byte)
    (hfits : 8 * (m.length + 1) < 2 ^ 128) : MessageOpen ((s.pushByte b).respond 0x0000) (m ++ [b]) := by
  obtain ⟨hph, -, hovf, habsorbed⟩ := messageOpen_iff.1 h
  have hcarry : lenCarries s.len = false := by
    rw [lenCarries, decide_eq_false_iff_not, h.length]
    omega
  exact messageOpen_iff.2 ⟨by simpa using hph, by simpa using hfits, by simp [hovf, hcarry], habsorbed.pushByte b⟩

/-- Settles O28: the pushed byte is absorbed and counted. -/
theorem hpushExtendsMessage : Obligations.HpushExtendsMessage := fun _ _ b h hfits =>
  ⟨_, exec_hpush_open h.isOpen b, h.pushByte b hfits⟩

theorem MessageOpen.pushText {s : State} {p : List Byte} (h : MessageOpen s p) (m : List Byte)
    (hfits : 8 * (p.length + m.length) < 2 ^ 128) : MessageOpen (s.pushText m) (p ++ m) := by
  induction m generalizing s p with
  | nil => simpa using h
  | cons b m ih =>
    rw [List.length_cons] at hfits
    have hnext := ih (h.pushByte b (by omega)) (by rw [List.length_append, List.length_singleton]; omega)
    rwa [List.append_assoc, List.singleton_append] at hnext

/-! ### HFIN (R116) -/

/-- What HFIN of an open message leaves in the registers that R117 names. -/
theorem MessageOpen.closeMessage {s : State} {m : List Byte} (h : MessageOpen s m) :
    let t := s.closeMessage.respond 0x0000
    t.h = hashState config.pIV m ∧ t.ph = .done ∧ t.n = 0 ∧ t.len.toNat = 8 * m.length ∧ t.ovf = false := by
  obtain ⟨-, -, -, habsorbed⟩ := messageOpen_iff.1 h
  simp [habsorbed.h_closeMessage, h.length, h.noOverflow]

/-- Settles O29: HFIN closes the open message. -/
theorem hfinFinishesHash : Obligations.HfinFinishesHash := fun _ _ h =>
  ⟨_, exec_hfin_open h.isOpen, h.closeMessage⟩

/-! ### The commands of `HASH m` (R91, R117) -/

section
variable (s : State) (m : List Byte)

@[simp] theorem State.comp_pushText : (s.pushText m).comp = s.comp := State.pushText_keeps State.comp (by simp) s m
@[simp] theorem State.cv_pushText : (s.pushText m).cv = s.cv := State.pushText_keeps State.cv (by simp) s m
@[simp] theorem State.comp_hashMessage : (s.hashMessage m).comp = s.comp := by simp [State.hashMessage]
@[simp] theorem State.cv_hashMessage : (s.hashMessage m).cv = s.cv := by simp [State.hashMessage]

end

/-- Settles O30: the message is opened, extended by its bytes and closed; no command of it touches the other registers. -/
theorem hashLeavesHashState : Obligations.HashLeavesHashState := by
  intro s m hwf hfits
  have hopen : MessageOpen ((s.openMessage.respond 0x0000).pushText m) m :=
    (State.messageOpen_openMessage hwf).pushText m (by simpa using hfits)
  obtain ⟨hhash, hph, hn, hlen, hovf⟩ := hopen.closeMessage
  rw [← State.hashMessage] at hhash hph hn hlen hovf
  refine ⟨_, execAll_hashCommands s m, hhash, hph, hn, hlen, hovf, State.wf_hashMessage hwf m, ?_, ?_, ?_,
    s.responses_hashMessage m⟩
  all_goals simp [SameErrors, SameSlots, SameComps]

end Sys2Proof.Machine
end

section
/-! Proofs/ReadSequences.lean: a row of commands that only answer, and the texts that RDDIGEST and VERDICT read by one
(R91). -/

namespace Sys2Proof.Machine

/-! ### Commands that only answer -/

/-- The responses `rs`, one after another. -/
def State.respondAll (s : State) (rs : List RspWord) : State := rs.foldl State.respond s

@[simp] theorem State.respondAll_nil (s : State) : s.respondAll [] = s := by rfl

@[simp] theorem State.respondAll_cons (s : State) (r : RspWord) (rs : List RspWord) :
    s.respondAll (r :: rs) = (s.respond r).respondAll rs := by rfl

/-- Responses are all that a row of them writes. -/
theorem State.respondAll_eq (s : State) (rs : List RspWord) :
    s.respondAll rs = { s with responses := s.responses ++ rs } := by
  induction rs generalizing s with
  | nil => simp
  | cons r rs ih => simp [ih, State.respond]

theorem State.onlyAnswered_respondAll (s : State) (rs : List RspWord) :
    (s.respondAll rs).responses = s.responses ++ rs ∧ SameEngine s (s.respondAll rs) ∧
      SameErrors s (s.respondAll rs) ∧ SameSlots s (s.respondAll rs) ∧ SameComps s (s.respondAll rs) := by
  rw [State.respondAll_eq]
  simp [SameEngine, SameTransients, SameBytes, SameErrors, SameSlots, SameComps]

/-- Commands that only answer where `P` holds, which no response changes, give their responses in order. -/
theorem execAll_map_respond {α : Type} {f : α → Instr} {r : α → RspWord} {P : State → Prop}
    (hkeep : ∀ u v, P u → P (u.respond v)) (hexec : ∀ u a, P u → exec (f a) u = .next (u.respond (r a))) {s : State}
    (hs : P s) (l : List α) : execAll (l.map f) s = .next (s.respondAll (l.map r)) := by
  induction l generalizing s with
  | nil => rfl
  | cons a l ih => exact (execAll_cons (hexec s a hs)).trans (ih (hkeep s _ hs))

/-- A list read by index past its end is the list and then the default. -/
theorem map_getD_range {α : Type} (l : List α) (d : α) {n : Nat} (h : l.length ≤ n) :
    (List.range n).map (l.getD · d) = l ++ List.replicate (n - l.length) d := by
  apply List.ext_getElem
  · simp [h]
  · intro j _ _
    by_cases hj : j < l.length
    · simp [hj]
    · simp [hj, List.getElem_append_right (Nat.le_of_not_lt hj)]

/-- The characters read by all indexes of `w` bits are the text and then zeros. -/
theorem map_setWidth_getD_range {w n : Nat} (hn : n = 2 ^ w) {text : List Byte} (h : text.length ≤ n) :
    (List.range n).map (fun j => (text.getD (BitVec.ofNat w j).toNat 0x00).setWidth 16) =
      text.map (·.setWidth 16) ++ List.replicate (n - text.length) (0x0000 : RspWord) := by
  have hread : ∀ j ∈ List.range n, (text.getD (BitVec.ofNat w j).toNat 0x00).setWidth 16 =
      (text.map (·.setWidth 16)).getD j (0x0000 : RspWord) := by
    intro j hj
    rw [BitVec.toNat_ofNat, Nat.mod_eq_of_lt (hn ▸ List.mem_range.1 hj)]
    exact (List.getD_map ..).symm
  rw [List.map_congr_left hread, map_getD_range _ _ (by rwa [List.length_map]), List.length_map]

/-! ### RDDIGEST (R91, R185) -/

/-- Settles O32: no response changes what the source gives, and the characters read are the text. -/
theorem rddigestReadsWholeText : Obligations.RddigestReadsWholeText := by
  intro s src x hx
  have hrun := execAll_map_respond (P := fun u => u.digestSource src = .ok x) (fun _ _ h => h)
    (fun u j h => exec_rdx_ok h (BitVec.ofNat 7 j)) hx (List.range 128)
  have hlength := length_hex512 x
  rw [map_setWidth_getD_range (w := 7) (n := 128) rfl hlength.le, hlength, Nat.sub_self, List.replicate_zero,
    List.append_nil] at hrun
  exact ⟨_, hrun, s.onlyAnswered_respondAll _⟩

/-! ### VERDICT (R91, R219) -/

theorem TamperVerdict.length_text_le (v : TamperVerdict) : v.text.length ≤ 32 := by cases v <;> decide

/-- VRDS where both composites are valid, by the verdict they give. -/
theorem exec_vrds_verdict {u : State} {v : TamperVerdict} (h : u.cv = 0b11 ∧ u.verdict = v) (j : BitVec 5) :
    exec (.vrds j) u = .next (u.respond ((v.text.getD j.toNat 0x00).setWidth 16)) := by
  obtain ⟨hcv, rfl⟩ := h
  exact exec_vrds_ok hcv j

/-- Settles O41: no response changes the verdict, and the characters read are its text and the zeros after it. -/
theorem verdictReadsWholeText : Obligations.VerdictReadsWholeText := by
  intro s hcv
  have hrun := execAll_map_respond (P := fun u => u.cv = 0b11 ∧ u.verdict = s.verdict) (fun _ _ h => h)
    (fun u j h => exec_vrds_verdict h (BitVec.ofNat 5 j)) ⟨hcv, rfl⟩ (List.range 32)
  rw [map_setWidth_getD_range (w := 5) (n := 32) rfl s.verdict.length_text_le] at hrun
  refine ⟨_, hrun, ?_⟩
  rw [List.append_assoc]
  exact s.onlyAnswered_respondAll _

end Sys2Proof.Machine
end

section
/-! Proofs/Datapath.lean: the form of a digest (R183) and of a rotation (R10), by what is known of each character and bit. -/

namespace Sys2Proof.Machine

/-! ### The digest (R183) -/

/-- Settles O53: the text of any eight words has this form. -/
theorem digestIs128LowercaseHex : Obligations.DigestIs128LowercaseHex := by
  refine fun iv m => ⟨length_hex512 _, fun c hc => ?_, fun j => toNat_getD_hex512 _⟩
  obtain ⟨n, rfl⟩ := eq_hexdigit_of_mem_hex512 hc
  exact hexdigit_lowercase n

/-! ### A rotation (R10) -/

/-- Settles O49: `getLsbD_rotr`. -/
theorem rotrMovesBits : Obligations.RotrMovesBits := fun x _ _ hpos hn hi => getLsbD_rotr x hpos (by omega) hi

end Sys2Proof.Machine
end
